-- ==== Sys2Proof/Word.lean ====
section
/-! DEFINITION. The block's word types: a byte is 8 bits (00_scope R5), a command word 16 bits (30_encoding R49).
All values are unsigned. -/

namespace Sys2Proof

/-- A byte (R5). -/
abbrev Byte := BitVec 8

/-- A command word `CW` (R49). -/
abbrev CommandWord := BitVec 16

end Sys2Proof
end

