-- ==== Sys2Proof/Machine/Constants.lean ====
section
/-! DEFINITION. The named constants the block's rules compare and compute with (00_scope R4). The spec asks for names and
not bare numbers, because the literals are unaudited (93_implementation_defined U13). -/

namespace Sys2Proof.Machine

/-- `SEQ_MOD`: modulus of both sequence counters. -/
abbrev seqMod : Nat := 255

/-- `TX_ADV_LIMIT`: the transmit counter advances only while `sent_count` is below it. -/
abbrev txAdvLimit : Nat := 2

/-- `TXBUF_CAP`: capacity of the transmit input buffer in bytes. -/
abbrev txBufCap : Nat := 4

/-- `MAX_PAYLOAD`: largest payload an encode accepts. -/
abbrev maxPayload : Nat := 6

/-- `MIN_FRAME`: shortest frame a decode accepts. -/
abbrev minFrame : Nat := 2

/-- `MAX_FRAME`: largest frame; also the most bytes an operand in `DIN` can have. -/
abbrev maxFrame : Nat := 8

/-- `IND_OK_MAX`: an accepted frame shows OK only while `valid_count` is at most this. -/
abbrev indOkMax : Nat := 2

/-- `NIBBLE_MASK`: mask of one 4-bit block. -/
abbrev nibbleMask : Nat := 0xF

end Sys2Proof.Machine
end

