-- ==== Sys2Proof/Config.lean ====
section
/-! DEFINITION. What an implementation fixes about the block's SHAPE: widths and sizes (the first part of 00_scope
R4's table of named constants). The thresholds and moduli that its rules compare with are in
`Sys2Proof/Machine/Constants.lean`. The spec leaves no value of the block open, so there is no free value here
(93_implementation_defined, end of section 3). -/

namespace Sys2Proof.Config

/-- `SENT_W`: width in bits of `sent_count` (R4, D12). -/
abbrev sentWidth : Nat := 2

/-- `VCW`: width in bits of the saturating `valid_count` (R4, R16). DESIGN CHOICE: the spec's default of 32 is taken
(unsafe only after 2^32 - 1 accepted frames, log entry 8). -/
abbrev validWidth : Nat := 32

/-- `DBUF_SIZE`: bytes of `DIN` and of `rsp.data` (R4, D8). -/
abbrev dbufSize : Nat := 8

/-- `FRAME_ID`: the 11-bit bus identifier the HOST passes to `send_frame` (R4, R47, D19). No command of the block reads
it. -/
def frameId : BitVec 11 := 0x666#11

end Sys2Proof.Config
end

