-- ==== Sys2Proof/Machine/State.lean ====
section
/-! DEFINITION. The state of one block (10_state), the types of its command and response interface (30_encoding R49,
R59), and the state after reset (70_reset_and_hazards R165). Plain data. -/

namespace Sys2Proof.Machine

/-- The four failures of a command (R145); each is reported in the response, never as a trap (R154). -/
inductive Failure where
  /-- `ENC.A`, `ENC.B` with `LEN > 6` (R146). -/
  | payloadTooLarge
  /-- `DEC`, `RXVAL` with `LEN < 2` (R147). -/
  | frameTooShort
  /-- `CSUM.A`, `CSUM.B`, `DEC`, `RXVAL` with `LEN > 8` (R148). -/
  | lengthOutOfRange
  /-- A reserved `OP` or a non-zero must-be-zero field (R149). -/
  | illegalCommand
  deriving DecidableEq, Repr

/-- `rsp.status`: the five ways a command ends (R60, R145). Codes 5..15 are never produced, so they have no value. -/
inductive Status where
  | ok
  | failure (f : Failure)
  deriving DecidableEq, Repr

/-- The outcome of a validation (R60, R122, R150). -/
inductive ValidationOutcome where
  | sequenceMismatch
  | checksumMismatch
  | accepted
  deriving DecidableEq, Repr

/-- The two visible states of the indicator (R17). -/
inductive Indicator where
  | ok
  | fault
  deriving DecidableEq, Repr

/-- A response (R59); a field a command's rule does not set is zero, `data` empty, `outcome` none (`NoOutcome`).
`rsp.olen` is the length of `data` (`Response.olen` in Machine/Flags.lean, log entry 17). -/
structure Response where
  status  : Status := .ok
  outcome : Option ValidationOutcome := none
  res     : Byte := 0
  ctr     : Byte := 0
  data    : List Byte := []
  deriving DecidableEq, Repr

/-- A command: the command word and the eight bytes of `DIN`, presented together (R49). -/
structure Command where
  word : CommandWord
  data : Vector Byte Config.dbufSize
  deriving DecidableEq, Repr

/-- One move of the host (R7, R165, R174). -/
inductive HostInput where
  /-- The host issues a command, after the response to the one before it. -/
  | command (c : Command)
  /-- The host resets the block (R165). -/
  | reset
  /-- The host breaks R174: it issues a command while another runs, or changes `CW` or `DIN` under a running one.
  The spec gives this no step; the machine stops on it (log entry 6). -/
  | overlap
  deriving DecidableEq, Repr

/-- The state. The first six fields are the spec's whole state (10_state, R22); the last three are the MODEL's own: the
ports of the command interface, and what the host will do next (log entries 1, 2, 3). -/
structure State where
  /-- `tx_counter` (R12). -/
  txCounter : Byte
  /-- `sent_count` (R13). -/
  sentCount : BitVec Config.sentWidth
  /-- `tx_buf`, oldest character first, 0 to 4 bytes (R14, R32). -/
  txBuf : List Byte
  /-- `expected_counter` (R15). -/
  expectedCounter : Byte
  /-- `valid_count` (R16). -/
  validCount : BitVec Config.validWidth
  /-- `ind`: none before the first outcome (R17). -/
  ind : Option Indicator
  /-- `DIN` as the command in progress presents it (R30). -/
  din : Vector Byte Config.dbufSize
  /-- The response port; none until the first command completes (R167). -/
  rsp : Option Response
  /-- The host's coming moves, the next one first. No queue of the block: the block has none (R174). -/
  host : List HostInput
  deriving DecidableEq, Repr

/-- The one fault of the machine. -/
inductive Fault where
  /-- Raised by `step` when the host's move is `HostInput.overlap`: what the block then does is not defined, and a model
  gives it no step (70_reset_and_hazards R174, 93_implementation_defined V7). Safe: the machine stops. -/
  | interfaceHazard
  deriving DecidableEq, Repr

/-- Reasons to refuse an instruction. -/
inductive Refusal where
  /-- Reserved for an arm of `exec` that has no meaning yet. No arm of this model uses it: every command has its
  meaning. Safe. -/
  | notModelled (mnemonic : String)
  deriving DecidableEq, Repr

/-- What a step answers. -/
abbrev Result := Host.Outcome State Fault Refusal

/-- The state right after reset: the six registers as R165 says, no valid response (R167), and of the model's own fields
`din` eight zero bytes and no host move (DESIGN CHOICE, log entries 1 and 3). -/
def State.reset : State where
  txCounter := 0
  sentCount := 0
  txBuf := []
  expectedCounter := 0
  validCount := 0
  ind := none
  din := Vector.replicate Config.dbufSize 0
  rsp := none
  host := []

end Sys2Proof.Machine
end

