-- ==== Sys2Proof/Machine/Flags.lean ====
section
/-! DEFINITION. The block has no condition codes (10_state R19). What comes nearest: the codes of `rsp.status` and
`rsp.outcome` (30_encoding R60), the response's length field, and the indicator policy that sets `ind` (44_indicator). -/

namespace Sys2Proof.Machine

/-- The code of a failure (R60). -/
def Failure.code : Failure → BitVec 4
  | .payloadTooLarge => 1
  | .frameTooShort => 2
  | .lengthOutOfRange => 3
  | .illegalCommand => 4

/-- The code on `rsp.status` (R60). -/
def Status.code : Status → BitVec 4
  | .ok => 0
  | .failure f => f.code

/-- The code of a validation outcome (R60). -/
def ValidationOutcome.code : ValidationOutcome → BitVec 2
  | .sequenceMismatch => 1
  | .checksumMismatch => 2
  | .accepted => 3

/-- The code on `rsp.outcome`; 0 is `NoOutcome` (R60). -/
def outcomeCode : Option ValidationOutcome → BitVec 2
  | none => 0
  | some o => o.code

/-- `rsp.olen`: the number of valid bytes in `rsp.data` (R31, R59). -/
def Response.olen (r : Response) : BitVec 4 := BitVec.ofNat 4 r.data.length

/-- The indicator policy (R135); `vc` is `valid_count` after the validator's update. -/
def indicator (o : ValidationOutcome) (vc : BitVec Config.validWidth) : Indicator :=
  match o with
  | .sequenceMismatch => .fault
  | .checksumMismatch => .fault
  | .accepted => if vc.toNat ≤ indOkMax then .ok else .fault

/-- The encoding of `ind` on the status port `st_ind` (R61): bit 1 "an outcome has been produced", bit 0 "FAULT". -/
def indCode : Option Indicator → BitVec 2
  | none => 0b00
  | some .ok => 0b10
  | some .fault => 0b11

end Sys2Proof.Machine
end

