-- ==== Sys2Proof/Machine/Ops.lean ====
section
/-! DEFINITION. The named operations over the state: writing each register, answering a command, failing a command (the
block's "trap entry", 60_exceptions R154; there is no return, R155), resetting the block (70_reset_and_hazards R165), and
the counters' arithmetic. -/

namespace Sys2Proof.Machine

/-! ### Writing one field -/

/-- `tx_counter <- v`. -/
def State.withTxCounter (s : State) (v : Byte) : State := { s with txCounter := v }

/-- `sent_count <- v`. -/
def State.withSentCount (s : State) (v : BitVec Config.sentWidth) : State := { s with sentCount := v }

/-- `tx_buf <- v`. -/
def State.withTxBuf (s : State) (v : List Byte) : State := { s with txBuf := v }

/-- `expected_counter <- v`. -/
def State.withExpectedCounter (s : State) (v : Byte) : State := { s with expectedCounter := v }

/-- `valid_count <- v`. -/
def State.withValidCount (s : State) (v : BitVec Config.validWidth) : State := { s with validCount := v }

/-- `ind <- v`: from here on an outcome has been produced (R17). -/
def State.withInd (s : State) (v : Indicator) : State := { s with ind := some v }

/-- The response port shows `r`. -/
def State.withRsp (s : State) (r : Response) : State := { s with rsp := some r }

/-- The host presents `v` on `DIN`. -/
def State.withDin (s : State) (v : Vector Byte Config.dbufSize) : State := { s with din := v }

/-- The host's coming moves are `v`. -/
def State.withHost (s : State) (v : List HostInput) : State := { s with host := v }

/-! ### Ending a command -/

/-- The command succeeds with response `r` in state `s`. -/
def respond (r : Response) (s : State) : Result := .next (s.withRsp r)

/-- `raise f` (R6, R154): no register is written, and the response holds the status alone. -/
def raise (f : Failure) (s : State) : Result := .next (s.withRsp { status := .failure f })

/-- The reset event (R165): every register at its reset value, no valid response (R167). The host's side, `din` and its
coming moves, is no part of the block and stays (log entry 7). -/
def resetBlock (s : State) : State := (State.reset.withDin s.din).withHost s.host

/-! ### Counters -/

/-- `(v + 1) mod 255`, the addition without 8-bit wrap (R100, R121). -/
def seqNext (v : Byte) : Byte := BitVec.ofNat 8 ((v.toNat + 1) % seqMod)

/-- `min(v + 1, 2^VCW - 1)`: the saturating increment of `valid_count` (R16). -/
def satIncr (v : BitVec Config.validWidth) : BitVec Config.validWidth :=
  BitVec.ofNat Config.validWidth (min (v.toNat + 1) (2 ^ Config.validWidth - 1))

end Sys2Proof.Machine
end

