-- ==== Sys2Proof/Machine/Operands.lean ====
section
/-! DEFINITION. The block's one operand form from a buffer: the first `LEN` bytes of `DIN` (20_memory R30, 30_encoding
R52). The byte operand `ARG` is used as it stands (R53). -/

namespace Sys2Proof.Machine

/-- `[ MemRead(DIN, i, 1) for i in 0 .. len-1 ]`: bytes at index `len` and above are ignored (R30). -/
def dinBytes (s : State) (len : Nat) : List Byte := s.din.toList.take len

end Sys2Proof.Machine
end

