-- ==== Sys2Proof/Machine/Checksum.lean ====
section
/-! DEFINITION. The Checksum-4 engine CS4 (40_checksum): the functions over byte sequences of any length, in natural
numbers that do not wrap (R72), and the commands `CSUM.A` and `CSUM.B`. The two variants are kept apart (R79). -/

namespace Sys2Proof.Machine

/-- The low nibble `b[3:0]` of a byte (R5). -/
def lowNibble (b : Byte) : Nat := b.toNat &&& nibbleMask

/-- The high nibble `b[7:4]` of a byte (R5). -/
def highNibble (b : Byte) : Nat := (b.toNat >>> 4) &&& nibbleMask

/-- `block(data, blockIndex)` (R70): the byte is `blockIndex div 2`, an odd block its high nibble. An index past the
sequence, which no rule forms, reads 0. -/
def block (data : List Byte) (blockIndex : Nat) : Nat :=
  let b := data.getD (blockIndex / 2) 0
  if blockIndex % 2 = 1 then highNibble b else lowNibble b

/-- `nibble_sum` (R71): both nibbles of every byte, summed. -/
def nibbleSum : List Byte → Nat
  | [] => 0
  | b :: bs => lowNibble b + highNibble b + nibbleSum bs

/-- One folding step, `(s & 0xF) + (s >> 4)` (R73). -/
def foldStep (s : Nat) : Nat := (s &&& nibbleMask) + (s >>> 4)

/-- `fold4` on at most `fuel` steps; each step from 16 up makes the sum smaller, so `fuel = s` is enough (log entry 13). -/
def foldFuel : Nat → Nat → Nat
  | 0, s => s
  | fuel + 1, s => if s ≤ nibbleMask then s else foldFuel fuel (foldStep s)

/-- `fold4` (R73): the test is made before each folding step. -/
def fold4 (s : Nat) : Nat := foldFuel s s

/-- `cs4_a` (R74): the 4-bit complement of the folded sum, upper bits zero. -/
def cs4A (data : List Byte) : Byte := ~~~(BitVec.ofNat 8 (fold4 (nibbleSum data))) &&& BitVec.ofNat 8 nibbleMask

/-- `cs4_b` (R75): `nibble_sum & 0xFF`. -/
def cs4B (data : List Byte) : Byte := BitVec.ofNat 8 (nibbleSum data &&& 0xFF)

/-- `CSUM.A` (R77). -/
def execCsumA (len : Nat) (s : State) : Result :=
  if maxFrame < len then raise .lengthOutOfRange s
  else respond { res := cs4A (dinBytes s len) } s

/-- `CSUM.B` (R78). -/
def execCsumB (len : Nat) (s : State) : Result :=
  if maxFrame < len then raise .lengthOutOfRange s
  else respond { res := cs4B (dinBytes s len) } s

end Sys2Proof.Machine
end

