-- ==== Sys2Proof/Machine/FrameCodec.lean ====
section
/-! DEFINITION. The frame codec FC (41_frame_codec): pack and split `[sequence][payload][checksum]` (30_encoding R45), and
the commands `ENC.A`, `ENC.B`, `DEC`. FC has no state. -/

namespace Sys2Proof.Machine

/-- The two named checksum variants (R79). -/
inductive Variant where
  | a
  | b
  deriving DecidableEq, Repr

/-- The checksum of a variant (R85). -/
def checksum (v : Variant) (body : List Byte) : Byte :=
  match v with
  | .a => cs4A body
  | .b => cs4B body

/-- A frame split into its parts (R86). -/
structure Parts where
  counter  : Byte
  payload  : List Byte
  checksum : Byte
  deriving DecidableEq, Repr

/-- `fc_encode` (R85). -/
def fcEncode (v : Variant) (counter : Byte) (payload : List Byte) : Except Failure (List Byte) :=
  if maxPayload < payload.length then .error .payloadTooLarge
  else .ok (counter :: payload ++ [checksum v (counter :: payload)])

/-- `fc_decode` (R86): first byte the counter, last byte the checksum, the middle the payload. A frame of at least
`MIN_FRAME` bytes has both bytes read here, so `getD`'s default is never read (log entry 21). -/
def fcDecode (frame : List Byte) : Except Failure Parts :=
  if frame.length < minFrame then .error .frameTooShort
  else .ok ⟨frame.getD 0 0, (frame.take (frame.length - 1)).drop 1, frame.getD (frame.length - 1) 0⟩

/-- The shared body of `ENC.A` and `ENC.B` (R88, R89). -/
def encodeDin (v : Variant) (len : Nat) (counter : Byte) (s : State) : Result :=
  if maxPayload < len then raise .payloadTooLarge s
  else
    match fcEncode v counter (dinBytes s len) with
    | .error f => raise f s
    | .ok frame => respond { data := frame } s

/-- `ENC.A` (R88). -/
def execEncA (len : Nat) (counter : Byte) (s : State) : Result := encodeDin .a len counter s

/-- `ENC.B` (R89). -/
def execEncB (len : Nat) (counter : Byte) (s : State) : Result := encodeDin .b len counter s

/-- The length checks `DEC` and `RXVAL` share, and then the split (R90, R123): `LengthOutOfRange` above 8 bytes,
`FrameTooShort` below 2 (R147, R148). -/
def frameOperand (len : Nat) (s : State) : Except Failure (List Byte) :=
  if maxFrame < len then .error .lengthOutOfRange
  else if len < minFrame then .error .frameTooShort
  else .ok (dinBytes s len)

/-- `DEC` (R90). -/
def execDec (len : Nat) (s : State) : Result :=
  match frameOperand len s with
  | .error f => raise f s
  | .ok frame =>
    match fcDecode frame with
    | .error f => raise f s
    | .ok p => respond { ctr := p.counter, res := p.checksum, data := p.payload } s

end Sys2Proof.Machine
end

