-- ==== Sys2Proof/Machine/RxValidator.lean ====
section
/-! DEFINITION. The receive side (43_rx_validator, 44_indicator): the frame validator FV and the command `RXVAL`. -/

namespace Sys2Proof.Machine

/-- What an accepted frame does to the counters (R121, R122). -/
def acceptFrame (counter : Byte) (s : State) : State :=
  (s.withValidCount (satIncr s.validCount)).withExpectedCounter (seqNext counter)

/-- Stages 2 and 3 of `fv_validate` on a decoded frame (R122): sequence first, then the Variant B checksum over
`[counter] ++ payload`, full bytes compared. -/
def validateParts (p : Parts) (s : State) : ValidationOutcome × State :=
  if p.counter ≠ s.expectedCounter then (.sequenceMismatch, s)
  else if cs4B (p.counter :: p.payload) ≠ p.checksum then (.checksumMismatch, s)
  else (.accepted, acceptFrame p.counter s)

/-- `fv_validate` (R122): decode is stage 1. -/
def fvValidate (frame : List Byte) (s : State) : Except Failure (ValidationOutcome × State) :=
  match fcDecode frame with
  | .error f => .error f
  | .ok p => .ok (validateParts p s)

/-- `RXVAL` (R123): the indicator is set from the outcome and the already updated `valid_count` (R135, R136). A command
that fails has no outcome and leaves `ind` alone (R126). -/
def execRxval (len : Nat) (s : State) : Result :=
  match frameOperand len s with
  | .error f => raise f s
  | .ok frame =>
    match fvValidate frame s with
    | .error f => raise f s
    | .ok (o, s') => respond { outcome := some o } (s'.withInd (indicator o s'.validCount))

end Sys2Proof.Machine
end

