-- ==== Sys2Proof/Machine/TxSequence.lean ====
section
/-! DEFINITION. The transmit side (42_tx_sequence): the sequence counter with its conditional advance, the input buffer,
and the commands `TXNEXT`, `TXAPPEND`, `TXCOMMIT`. -/

namespace Sys2Proof.Machine

/-- `tx_next` (R100): the counter and `sent_count` advance together, and only while `sent_count < 2`. The value the rule
returns is the new state's `txCounter`. -/
def txNext (s : State) : State :=
  if s.sentCount.toNat < txAdvLimit then
    (s.withTxCounter (seqNext s.txCounter)).withSentCount (s.sentCount + 1)
  else s

/-- The append of R104: a character beyond the capacity is dropped without a sign. -/
def appendChar (ch : Byte) (s : State) : State :=
  if s.txBuf.length < txBufCap then s.withTxBuf (s.txBuf ++ [ch]) else s

/-- `TXNEXT` (R102). -/
def execTxnext (s : State) : Result := respond { ctr := (txNext s).txCounter } (txNext s)

/-- `TXAPPEND` (R104): status OK whether or not the character was kept. -/
def execTxappend (ch : Byte) (s : State) : Result := respond {} (appendChar ch s)

/-- `TXCOMMIT` (R107, R108): on an empty buffer nothing happens; else the counter advances first, then the Variant A frame
is built with the new value, then the buffer is emptied. The encode cannot fail on a buffer of at most 6 bytes; on a
longer one, which no run reaches, its failure is raised (log entry 11). -/
def execTxcommit (s : State) : Result :=
  if s.txBuf.length = 0 then respond {} s
  else
    match fcEncode .a (txNext s).txCounter s.txBuf with
    | .error f => raise f s
    | .ok frame => respond { data := frame } ((txNext s).withTxBuf [])

end Sys2Proof.Machine
end

