-- ==== Sys2Proof/Syntax.lean ====
section
/-! DEFINITION. The nine commands of the block (30_encoding R56), one constructor per row of the opcode table, with the
operands its format gives it (R51): `len` is the byte count of the `LEN` field, `arg` the byte of the `ARG` field. A
field that must be zero is no operand. -/

namespace Sys2Proof

/-- A command of the block, decoded. -/
inductive Instr where
  /-- `CSUM.A`, format D (R77). -/
  | csumA (len : Nat)
  /-- `CSUM.B`, format D (R78). -/
  | csumB (len : Nat)
  /-- `ENC.A`, format E (R88): `arg` is the counter byte. -/
  | encA (len : Nat) (arg : Byte)
  /-- `ENC.B`, format E (R89): `arg` is the counter byte. -/
  | encB (len : Nat) (arg : Byte)
  /-- `DEC`, format D (R90). -/
  | dec (len : Nat)
  /-- `TXNEXT`, format N (R102). -/
  | txnext
  /-- `TXAPPEND`, format C (R104): `arg` is the character. -/
  | txappend (arg : Byte)
  /-- `TXCOMMIT`, format N (R107). -/
  | txcommit
  /-- `RXVAL`, format D (R123). -/
  | rxval (len : Nat)
  deriving DecidableEq, Repr

end Sys2Proof
end

