-- ==== Sys2Proof/Machine/Dispatch.lean ====
section
/-! DEFINITION. Every command's meaning, one arm per constructor of `Instr`. -/

namespace Sys2Proof.Machine

def exec (i : Instr) (s : State) : Host.Outcome State Fault Refusal :=
  match i with
  | .csumA len => Sys2Proof.Machine.execCsumA len s
  | .csumB len => Sys2Proof.Machine.execCsumB len s
  | .encA len arg => Sys2Proof.Machine.execEncA len arg s
  | .encB len arg => Sys2Proof.Machine.execEncB len arg s
  | .dec len => Sys2Proof.Machine.execDec len s
  | .txnext => Sys2Proof.Machine.execTxnext s
  | .txappend arg => Sys2Proof.Machine.execTxappend arg s
  | .txcommit => Sys2Proof.Machine.execTxcommit s
  | .rxval len => Sys2Proof.Machine.execRxval len s

end Sys2Proof.Machine
end

