-- ==== Sys2Proof/WellFormed.lean ====
section
/-! DEFINITION. Which commands a 16-bit command word can carry: `LEN` is a 4-bit number (30_encoding R50, R52), so a
byte count is at most 15. A `LEN` that is out of a command's legal range is NOT ill-formed: it decodes and then fails
(R52). -/

namespace Sys2Proof

/-- The count fits the 4-bit `LEN` field; a command without a `LEN` operand is always well formed. -/
def Instr.wellFormed : Instr → Bool
  | .csumA len => decide (len < 16)
  | .csumB len => decide (len < 16)
  | .encA len _ => decide (len < 16)
  | .encB len _ => decide (len < 16)
  | .dec len => decide (len < 16)
  | .txnext => true
  | .txappend _ => true
  | .txcommit => true
  | .rxval len => decide (len < 16)

/-- The predicate the statements use. -/
abbrev Instr.WellFormed (i : Instr) : Prop := i.wellFormed = true

end Sys2Proof
end

