-- ==== Sys2Proof/Decode.lean ====
section
/-! DEFINITION. Decoding a command word, total on all 65536 words and rejecting by name (30_encoding R54), the opcode
table it follows (R55, R56), and after it the encoder, written from the same tables. -/

namespace Sys2Proof

/-- The nine operation codes in use (R56). -/
inductive Opcode where
  | csumA | csumB | encA | encB | dec | txnext | txappend | txcommit | rxval
  deriving DecidableEq, Repr

/-- The four formats of R51: data, encode, character, no operand. -/
inductive Format where
  | d | e | c | n
  deriving DecidableEq, Repr

/-- Why a word is no command. Both reasons are reported as `IllegalCommand` (R149); their order is R152's (1) and (2). -/
inductive DecodeError where
  /-- `OP` is 0x0 or 0xA..0xF (R57). -/
  | reservedOpcode
  /-- A must-be-zero field is not zero (R58). -/
  | nonzeroField
  deriving DecidableEq, Repr

/-- `CW[15:12]` (R50). -/
def opField (cw : CommandWord) : BitVec 4 := cw.extractLsb' 12 4

/-- `CW[11:8]` as a byte count (R50, R52). -/
def lenField (cw : CommandWord) : Nat := (cw.extractLsb' 8 4).toNat

/-- `CW[7:0]` (R50, R53). -/
def argField (cw : CommandWord) : Byte := cw.extractLsb' 0 8

/-- The opcode map (R56); the values with no row are reserved (R57). -/
def opcodeOf (op : BitVec 4) : Option Opcode :=
  match op with
  | 0x1#4 => some .csumA
  | 0x2#4 => some .csumB
  | 0x3#4 => some .encA
  | 0x4#4 => some .encB
  | 0x5#4 => some .dec
  | 0x6#4 => some .txnext
  | 0x7#4 => some .txappend
  | 0x8#4 => some .txcommit
  | 0x9#4 => some .rxval
  | _ => none

/-- The format column of R56. -/
def Opcode.format : Opcode → Format
  | .csumA => .d
  | .csumB => .d
  | .encA => .e
  | .encB => .e
  | .dec => .d
  | .txnext => .n
  | .txappend => .c
  | .txcommit => .n
  | .rxval => .d

/-- The must-be-zero check of a format (R51, R58). -/
def Format.zeroFieldsOk (f : Format) (len : Nat) (arg : Byte) : Bool :=
  match f with
  | .d => arg == 0
  | .e => true
  | .c => len == 0
  | .n => len == 0 && arg == 0

/-- The command an opcode names, with the operands its format takes (R51). -/
def Opcode.instr (op : Opcode) (len : Nat) (arg : Byte) : Instr :=
  match op with
  | .csumA => .csumA len
  | .csumB => .csumB len
  | .encA => .encA len arg
  | .encB => .encB len arg
  | .dec => .dec len
  | .txnext => .txnext
  | .txappend => .txappend arg
  | .txcommit => .txcommit
  | .rxval => .rxval len

/-- The decoding procedure of R54, in its three steps. -/
def decode (cw : CommandWord) : Except DecodeError Instr :=
  match opcodeOf (opField cw) with
  | none => .error .reservedOpcode
  | some op =>
    if op.format.zeroFieldsOk (lenField cw) (argField cw) then .ok (op.instr (lenField cw) (argField cw))
    else .error .nonzeroField

/-! ### The encoder -/

/-- The `OP` column of R56. -/
def Opcode.code : Opcode → BitVec 4
  | .csumA => 0x1#4
  | .csumB => 0x2#4
  | .encA => 0x3#4
  | .encB => 0x4#4
  | .dec => 0x5#4
  | .txnext => 0x6#4
  | .txappend => 0x7#4
  | .txcommit => 0x8#4
  | .rxval => 0x9#4

/-- The opcode of a command. -/
def Instr.opcode : Instr → Opcode
  | .csumA _ => .csumA
  | .csumB _ => .csumB
  | .encA _ _ => .encA
  | .encB _ _ => .encB
  | .dec _ => .dec
  | .txnext => .txnext
  | .txappend _ => .txappend
  | .txcommit => .txcommit
  | .rxval _ => .rxval

/-- What stands in the `LEN` field of a command's word: its count, or the zero its format demands (R51). -/
def Instr.lenBits : Instr → BitVec 4
  | .csumA len => BitVec.ofNat 4 len
  | .csumB len => BitVec.ofNat 4 len
  | .encA len _ => BitVec.ofNat 4 len
  | .encB len _ => BitVec.ofNat 4 len
  | .dec len => BitVec.ofNat 4 len
  | .txnext => 0
  | .txappend _ => 0
  | .txcommit => 0
  | .rxval len => BitVec.ofNat 4 len

/-- What stands in the `ARG` field of a command's word: its byte operand, or the zero its format demands (R51). -/
def Instr.argBits : Instr → Byte
  | .csumA _ => 0
  | .csumB _ => 0
  | .encA _ arg => arg
  | .encB _ arg => arg
  | .dec _ => 0
  | .txnext => 0
  | .txappend arg => arg
  | .txcommit => 0
  | .rxval _ => 0

/-- A word from its three fields: `(OP << 12) | (LEN << 8) | ARG` (R50, R62). -/
def joinFields (op len : BitVec 4) (arg : Byte) : CommandWord := op ++ len ++ arg

/-- The command word of a command (R56). -/
def encode (i : Instr) : CommandWord := joinFields i.opcode.code i.lenBits i.argBits

/-! ### The machine-readable table (R55) -/

/-- One row of the opcode table: `CW & mask = pattern` exactly when the word decodes to that command (R55). -/
structure TableRow where
  mnemonic : String
  pattern  : CommandWord
  mask     : CommandWord
  deriving DecidableEq, Repr

/-- The row of an opcode, as `opcode_table.json` writes it. -/
def tableRow : Opcode → TableRow
  | .csumA => ⟨"CSUM.A", 0x1000#16, 0xF0FF#16⟩
  | .csumB => ⟨"CSUM.B", 0x2000#16, 0xF0FF#16⟩
  | .encA => ⟨"ENC.A", 0x3000#16, 0xF000#16⟩
  | .encB => ⟨"ENC.B", 0x4000#16, 0xF000#16⟩
  | .dec => ⟨"DEC", 0x5000#16, 0xF0FF#16⟩
  | .txnext => ⟨"TXNEXT", 0x6000#16, 0xFFFF#16⟩
  | .txappend => ⟨"TXAPPEND", 0x7000#16, 0xFF00#16⟩
  | .txcommit => ⟨"TXCOMMIT", 0x8000#16, 0xFFFF#16⟩
  | .rxval => ⟨"RXVAL", 0x9000#16, 0xF0FF#16⟩

/-- The command word that the low `nbits` bits of `w` give, every bit above them zero. A command word is presented whole
on a 16-bit port: it has no byte order (log entry 4). -/
def tableWord (nbits w : Nat) : CommandWord := BitVec.ofNat 16 (w % 2 ^ nbits)

/-- The command the decoder reads from a word numbered as the opcode table numbers it; none where it refuses. -/
def decodeTableWord (nbits w : Nat) : Option Instr :=
  match decode (tableWord nbits w) with
  | .ok i => some i
  | .error _ => none

end Sys2Proof
end

