-- ==== Sys2Proof/Machine/Fetch.lean ====
section
/-! DEFINITION. The block fetches nothing (20_memory R42): its host presents one command at a time. Here is what the host's
next move makes of a state (00_scope R7, 70_reset_and_hazards R165, R167, R174), for `step` to act on. -/

namespace Sys2Proof.Machine

/-- What the block is to do next. -/
inductive Task where
  /-- The host makes no move: the block waits for a command (R167). -/
  | wait (s : State)
  /-- The host resets the block (R165). -/
  | reset (s : State)
  /-- The host breaks the interface rule (R174). -/
  | hazard
  /-- A command is presented and its word decodes (R54). -/
  | run (i : Instr) (s : State)
  /-- A command is presented and its word decodes to none (R149). -/
  | illegal (e : DecodeError) (s : State)
  deriving DecidableEq, Repr

/-- The state in which a command executes: its data stand on `DIN`, and the host has `rest` left to do (R49). -/
def present (c : Command) (rest : List HostInput) (s : State) : State := (s.withDin c.data).withHost rest

/-- The block's next task in state `s`. -/
def nextTask (s : State) : Task :=
  match s.host with
  | [] => .wait s
  | .reset :: rest => .reset (s.withHost rest)
  | .overlap :: _ => .hazard
  | .command c :: rest =>
    match decode c.word with
    | .ok i => .run i (present c rest s)
    | .error e => .illegal e (present c rest s)

/-- `s` with the host about to issue the command of word `cw`, the data now on `DIN` with it (log entry 4). -/
def offerWord (s : State) (cw : CommandWord) : State := s.withHost (.command ⟨cw, s.din⟩ :: s.host)

end Sys2Proof.Machine
end

