-- ==== Sys2Proof/Machine/Step.lean ====
section
/-! DEFINITION. One step of the block: one move of its host, and the whole of what the block does on it, atomically
(00_scope R7, 20_memory R37). -/

namespace Sys2Proof.Machine

/-- One step. A command whose word does not decode fails with `IllegalCommand` and no part of it runs (R149). -/
def step (s : State) : Host.Outcome State Fault Refusal :=
  match nextTask s with
  | .wait s => .next s
  | .reset s => .next (resetBlock s)
  | .hazard => .fault .interfaceHazard
  | .run i s => exec i s
  | .illegal _ s => raise .illegalCommand s

/-- `s` with the host about to issue the command that the table word gives (log entry 4). -/
def State.withFetchWord (s : State) (nbits w : Nat) : State := offerWord s (tableWord nbits w)

end Sys2Proof.Machine
end

