-- ==== Sys2Proof/Machine/Assembler.lean ====
section
/-! DEFINITION. The host's side of a command: the assembler syntax of 30_encoding R62 as a type of lines, the command a line
stands for, and the pseudo-instruction `KEY` (R63). The block itself never sees a line or a key. -/

namespace Sys2Proof.Machine

/-- A byte list in braces, with the optional `len=N` before it (R62). -/
structure Braces where
  lenIs : Option Nat := none
  bytes : List Byte := []
  deriving DecidableEq, Repr

/-- A key of the keypad, as far as the source says: the commit trigger `#`, or another accepted character as the byte the
host makes of it (R63, R106). The cancel key is no constructor: the spec defines nothing for it (R110). -/
inductive Key where
  | commit
  | char (ch : Byte)
  deriving DecidableEq, Repr

/-- A line of R62, or the pseudo-instruction of R63. -/
inductive AsmLine where
  | csumA (b : Braces)
  | csumB (b : Braces)
  | encA (ctr : Byte) (b : Braces)
  | encB (ctr : Byte) (b : Braces)
  | dec (b : Braces)
  | txnext
  | txappend (ch : Byte)
  | txcommit
  | rxval (b : Braces)
  | key (k : Key)
  deriving DecidableEq, Repr

/-- `LEN` of a line: the number given by `len=N`, else the number of bytes listed (R62). -/
def Braces.len (b : Braces) : Nat := b.lenIs.getD b.bytes.length

/-- The expansion of `KEY` (R63). -/
def Key.expand : Key → Instr
  | .commit => .txcommit
  | .char ch => .txappend ch

/-- The command a line names (R62, R63). -/
def AsmLine.instr : AsmLine → Instr
  | .csumA b => .csumA b.len
  | .csumB b => .csumB b.len
  | .encA ctr b => .encA b.len ctr
  | .encB ctr b => .encB b.len ctr
  | .dec b => .dec b.len
  | .txnext => .txnext
  | .txappend ch => .txappend ch
  | .txcommit => .txcommit
  | .rxval b => .rxval b.len
  | .key k => k.expand

/-- The bytes a line lists. -/
def AsmLine.bytes : AsmLine → List Byte
  | .csumA b => b.bytes
  | .csumB b => b.bytes
  | .encA _ b => b.bytes
  | .encB _ b => b.bytes
  | .dec b => b.bytes
  | .txnext => []
  | .txappend _ => []
  | .txcommit => []
  | .rxval b => b.bytes
  | .key _ => []

/-- Listed bytes go to `DIN[0]`, `DIN[1]`, ... in order; unlisted bytes are 0 (R62). -/
def padDin (bytes : List Byte) : Vector Byte Config.dbufSize := Vector.ofFn fun i => bytes.getD i.val 0

/-- The command of a line; none where it lists more bytes than `DIN` holds or a count the `LEN` field cannot hold. -/
def assemble (l : AsmLine) : Option Command :=
  if l.bytes.length ≤ Config.dbufSize && l.instr.wellFormed then some ⟨encode l.instr, padDin l.bytes⟩ else none

end Sys2Proof.Machine
end

