-- ==== Sys2Proof/Machine/Ports.lean ====
section
/-! DEFINITION. How the block is seen from outside: the read-only status ports S0 to S5 (10_state R18), the response port
(30_encoding R59) and the packing of the two 8-byte buffers on 64-bit ports (20_memory R31, R35). No rule of the block reads
any of these. -/

namespace Sys2Proof.Machine

/-- S0 `st_tx_counter`. -/
def stTxCounter (s : State) : BitVec 8 := s.txCounter

/-- S1 `st_sent_count`. -/
def stSentCount (s : State) : BitVec 2 := s.sentCount

/-- S2 `st_tx_buf_len`. -/
def stTxBufLen (s : State) : BitVec 3 := BitVec.ofNat 3 s.txBuf.length

/-- S3 `st_expected_counter`. -/
def stExpectedCounter (s : State) : BitVec 8 := s.expectedCounter

/-- S4 `st_valid_count`. -/
def stValidCount (s : State) : BitVec Config.validWidth := s.validCount

/-- S5 `st_ind` (R61). -/
def stInd (s : State) : BitVec 2 := indCode s.ind

/-- Byte `i` of a 64-bit port: bits `[8i+7 : 8i]` (R35). -/
def portByte (p : BitVec 64) (i : Nat) : Byte := p.extractLsb' (8 * i) 8

/-- `cmd_data` as the eight bytes of `DIN` (R35). -/
def dinOfPort (p : BitVec 64) : Vector Byte Config.dbufSize := Vector.ofFn fun i => portByte p i.val

/-- A byte sequence on a 64-bit port: byte `i` at bits `[8i+7 : 8i]`, the bytes past its end 0 (R31, R35). -/
def portOfBytes : List Byte → BitVec 64
  | [] => 0
  | b :: bs => b.setWidth 64 ||| (portOfBytes bs <<< 8)

/-- `rsp_data` (R31, R35). -/
def Response.dataPort (r : Response) : BitVec 64 := portOfBytes r.data

/-- `rsp_valid`: the port shows a response (R167). -/
def rspValid (s : State) : Bool := s.rsp.isSome

end Sys2Proof.Machine
end

