-- ==== Sys2Proof/Machine/System.lean ====
section
/-! DEFINITION. The two-node system (00_scope R8, 20_memory R40, 60_exceptions R158): a transmitter and a receiver, each with
a block of its own, which share no state and are reset on their own (70_reset_and_hazards R182). What one node's host does
with the other's frames is the host's and the bus's choice: any bytes may arrive at the receiver at any time. -/

namespace Sys2Proof.Machine

/-- The two nodes. -/
inductive Node where
  | transmitter
  | receiver
  deriving DecidableEq, Repr

/-- The blocks of the two nodes. -/
structure System where
  transmitter : State
  receiver    : State
  deriving DecidableEq, Repr

/-- Both blocks from reset. -/
def System.reset : System := ⟨State.reset, State.reset⟩

/-- The block of a node. -/
def System.block (y : System) : Node → State
  | .transmitter => y.transmitter
  | .receiver => y.receiver

/-- The system with the block of a node in state `s`, the other node as it was. -/
def System.withBlock (y : System) (n : Node) (s : State) : System :=
  match n with
  | .transmitter => { y with transmitter := s }
  | .receiver => { y with receiver := s }

/-- Node `n` takes a step; the order in which nodes step is the environment's. -/
def System.stepNode (y : System) (n : Node) : Host.Outcome System Fault Refusal :=
  match step (y.block n) with
  | .next s => .next (y.withBlock n s)
  | .fault r => .fault r
  | .refused r => .refused r

end Sys2Proof.Machine
end

