-- ==== Sys2Proof/Safety.lean ====
section
/-! DEFINITION. The terms the statements use: legal and reachable states (10_state R20), what two states have in common,
issuing one command, illegal words (30_encoding R57, R58), and the loop-back of a transmitter into a receiver over a bus
that may lose, repeat and reorder frames but not corrupt them (43_rx_validator R127; log entry 15). -/

namespace Sys2Proof.Machine

/-- Every register has a legal value (10_state, section 6; R20 (a), (b), (d)). -/
abbrev State.InRange (s : State) : Prop :=
  s.txCounter.toNat ≤ 254 ∧ s.expectedCounter.toNat ≤ 254 ∧ s.sentCount.toNat ≤ 2 ∧ s.txBuf.length ≤ 4

/-- The relations between the registers that hold in every run from reset (R20 (c), (e); R125): the transmit counter is
the number of its advances; OK is shown only with one or two frames accepted; before the first outcome nothing has been
accepted; and until `valid_count` saturates the expected counter is that count modulo 255. -/
abbrev State.RunInv (s : State) : Prop :=
  s.InRange ∧ s.txCounter.toNat = s.sentCount.toNat ∧
  (s.ind = some .ok → s.validCount.toNat = 1 ∨ s.validCount.toNat = 2) ∧
  (s.ind = none → s.validCount.toNat = 0) ∧
  (s.validCount.toNat < 2 ^ 32 - 1 → s.expectedCounter.toNat = s.validCount.toNat % 255)

/-- The transmit-side registers agree (R8). -/
abbrev State.SameTransmit (s t : State) : Prop :=
  s.txCounter = t.txCounter ∧ s.sentCount = t.sentCount ∧ s.txBuf = t.txBuf

/-- The receive-side registers agree (R8). -/
abbrev State.SameReceive (s t : State) : Prop :=
  s.expectedCounter = t.expectedCounter ∧ s.validCount = t.validCount ∧ s.ind = t.ind

/-- All six registers agree: the spec's whole state is the same (R22). -/
abbrev State.SameRegisters (s t : State) : Prop := s.SameTransmit t ∧ s.SameReceive t

/-- The host's side of the interface is the same: `DIN` and the host's coming moves. -/
abbrev State.SameHostSide (s t : State) : Prop := s.din = t.din ∧ s.host = t.host

/-- One step on a command that the host issues now. -/
def issue (c : Command) (s : State) : Result := step (s.withHost (.command c :: s.host))

/-- The words that are no command: a reserved `OP` (R57), or a defined one with a non-zero must-be-zero field (R58). The
`OP` values are listed as R56 and R51 list them. -/
abbrev IllegalWord (cw : CommandWord) : Prop :=
  cw.extractLsb' 12 4 ∈ [0x0#4, 0xA#4, 0xB#4, 0xC#4, 0xD#4, 0xE#4, 0xF#4] ∨
  (cw.extractLsb' 12 4 ∈ [0x1#4, 0x2#4, 0x5#4, 0x9#4] ∧ cw.extractLsb' 0 8 ≠ 0x00#8) ∨
  (cw.extractLsb' 12 4 = 0x7#4 ∧ cw.extractLsb' 8 4 ≠ 0x0#4) ∨
  (cw.extractLsb' 12 4 ∈ [0x6#4, 0x8#4] ∧ (cw.extractLsb' 8 4 ≠ 0x0#4 ∨ cw.extractLsb' 0 8 ≠ 0x00#8))

/-- How many bytes of `DIN` are a command's operand (R30). -/
def dinUse : Instr → Nat
  | .csumA len => len
  | .csumB len => len
  | .encA len _ => len
  | .encB len _ => len
  | .dec len => len
  | .txnext => 0
  | .txappend _ => 0
  | .txcommit => 0
  | .rxval len => len

/-! ### The loop-back -/

/-- A two-node system and the frames the transmitter's host has handed to the bus so far. -/
structure Link where
  nodes : System
  sent  : List (List Byte)
  deriving DecidableEq, Repr

/-- What can happen on the link: the transmitter's host issues any command; the bus delivers the `k`-th frame sent
(never, once or often, in any order) and the receiver's host validates it; either node is reset. -/
inductive LinkMove where
  | transmit (c : Command)
  | deliver (k : Nat)
  | resetNode (n : Node)
  deriving DecidableEq, Repr

/-- The frame a response of `TXCOMMIT` or `ENC.A` carries, for the bus (R111, R127). -/
def sentFrames (c : Command) (rsp : Option Response) : List (List Byte) :=
  match decode c.word, rsp with
  | .ok .txcommit, some r => if r.data = [] then [] else [r.data]
  | .ok (.encA _ _), some r => if r.data = [] then [] else [r.data]
  | _, _ => []

/-- One move on the link. -/
def Link.move (l : Link) (m : LinkMove) : Link :=
  match m with
  | .transmit c =>
    match issue c l.nodes.transmitter with
    | .next t => ⟨l.nodes.withBlock .transmitter t, l.sent ++ sentFrames c t.rsp⟩
    | _ => l
  | .deliver k =>
    match l.sent[k]? with
    | none => l
    | some f =>
      match issue ⟨encode (.rxval f.length), padDin f⟩ l.nodes.receiver with
      | .next r => ⟨l.nodes.withBlock .receiver r, l.sent⟩
      | _ => l
  | .resetNode n => ⟨l.nodes.withBlock n (resetBlock (l.nodes.block n)), l.sent⟩

/-- Both nodes from reset, nothing sent. -/
def Link.reset : Link := ⟨System.reset, []⟩

/-- What every move on the link keeps: the transmitter's registers are in range; every frame handed to the bus is 2 to 8
bytes long and ends in the Variant A checksum of the rest; and the receiver has accepted nothing and shows no OK (R127). -/
abbrev Link.Inv (l : Link) : Prop :=
  l.nodes.transmitter.InRange ∧
  (∀ f ∈ l.sent, 2 ≤ f.length ∧ f.length ≤ 8 ∧ f.getLast? = some (cs4A f.dropLast)) ∧
  l.nodes.receiver.expectedCounter = 0 ∧ l.nodes.receiver.validCount = 0 ∧ l.nodes.receiver.ind ≠ some .ok

end Sys2Proof.Machine
end

