-- ==== Sys2Proof/Certificates/Slice0/Obligations.lean ====
section
/-! DEFINITION. The statements for the provers, each with the rule of spec/ it comes from. -/

open Sys2Proof Sys2Proof.Machine

/-! ### Encoding -/

/-- Decoding undoes encoding, for every command with every operand its word can carry (30_encoding, sections 2 and 3). -/
def Obligations.DecodeUndoesEncode : Prop :=
  ∀ i : Instr, i.WellFormed → decode (encode i) = .ok i

/-- A word has one meaning: a word that decodes is the word of the command it decodes to, and that command is well formed
(30_encoding, section 3). -/
def Obligations.EncodeUndoesDecode : Prop :=
  ∀ (cw : CommandWord) (i : Instr), decode cw = .ok i → i.WellFormed ∧ encode i = cw

/-- The decoder and the mask table agree on every word, and a word that matches no row fails as `IllegalCommand`
(30_encoding, section 3; the spec marks this rule as derived). -/
def Obligations.TableRowsSelectCommands : Prop :=
  (∀ (cw : CommandWord) (op : Opcode),
    (∃ i, decode cw = .ok i ∧ i.opcode = op) ↔ cw &&& (tableRow op).mask = (tableRow op).pattern) ∧
  (∀ (c : Command) (s : State), (∀ op, c.word &&& (tableRow op).mask ≠ (tableRow op).pattern) →
    issue c s = .next { s with din := c.data, rsp := some { status := .failure .illegalCommand } })

/-- Words written out from the spec's encodings and its decoding vectors (95_test_vectors, 2.6) decode as it says. -/
def Obligations.SampleWordsDecode : Prop :=
  decode 0x1200#16 = .ok (.csumA 2) ∧ decode 0x2200#16 = .ok (.csumB 2) ∧ decode 0x3101#16 = .ok (.encA 1 0x01) ∧
  decode 0x4200#16 = .ok (.encB 2 0x00) ∧ decode 0x5300#16 = .ok (.dec 3) ∧ decode 0x6000#16 = .ok .txnext ∧
  decode 0x7031#16 = .ok (.txappend 0x31) ∧ decode 0x8000#16 = .ok .txcommit ∧ decode 0x9400#16 = .ok (.rxval 4) ∧
  decode 0x0000#16 = .error .reservedOpcode ∧ decode 0xFFFF#16 = .error .reservedOpcode ∧
  decode 0x7131#16 = .error .nonzeroField ∧ decode 0x8001#16 = .error .nonzeroField ∧
  decode 0x5901#16 = .error .nonzeroField

/-! ### The step -/

/-- A step on a presented command whose word decodes is `exec` of that command, with the command's data on `DIN` and the
host's other moves still to come (00_scope, section 4). -/
def Obligations.StepRunsDecodedCommand : Prop :=
  ∀ (s : State) (c : Command) (rest : List HostInput) (i : Instr),
    s.host = .command c :: rest → decode c.word = .ok i → step s = exec i { s with din := c.data, host := rest }

/-- A word with a reserved opcode or a non-zero must-be-zero field fails as `IllegalCommand` and changes no register, and
every other word decodes (30_encoding, section 3; 60_exceptions, section 1; decision D5). -/
def Obligations.IllegalWordsFail : Prop :=
  ∀ (s : State) (c : Command) (rest : List HostInput), s.host = .command c :: rest →
    (IllegalWord c.word →
      step s = .next { s with din := c.data, host := rest, rsp := some { status := .failure .illegalCommand } }) ∧
    (¬ IllegalWord c.word → ∃ i, decode c.word = .ok i)

/-- With no command the block waits, unchanged; on an overlapped command it has no step (70_reset_and_hazards, sections 1
and 3; the waiting step and the fault are the model's, log entries 5 and 6). -/
def Obligations.WaitsOrStopsWithoutCommand : Prop :=
  ∀ s : State, (s.host = [] → step s = .next s) ∧
    (∀ rest, s.host = .overlap :: rest → step s = .fault .interfaceHazard)

/-- A reset puts every register at its reset value, whatever it held, and leaves no valid response (70_reset_and_hazards,
section 1; that the host's side stays is the model's, log entry 7). -/
def Obligations.ResetMoveRestoresRegisters : Prop :=
  ∀ (s : State) (rest : List HostInput), s.host = .reset :: rest →
    step s = .next { txCounter := 0, sentCount := 0, txBuf := [], expectedCounter := 0, validCount := 0, ind := none,
                     din := s.din, rsp := none, host := rest }

/-- The state after reset (70_reset_and_hazards, section 1, whose values for the transmit side and the indicator are the
spec's decisions D11 and D14), with the status ports' readings of 95_test_vectors 2.7. -/
def Obligations.ResetStateValues : Prop :=
  State.reset.txCounter = 0 ∧ State.reset.sentCount = 0 ∧ State.reset.txBuf = [] ∧ State.reset.expectedCounter = 0 ∧
  State.reset.validCount = 0 ∧ State.reset.ind = none ∧ State.reset.rsp = none ∧
  stTxCounter State.reset = 0x00#8 ∧ stSentCount State.reset = 0#2 ∧ stTxBufLen State.reset = 0#3 ∧
  stExpectedCounter State.reset = 0x00#8 ∧ stValidCount State.reset = 0 ∧ stInd State.reset = 0b00#2

/-- Every command ends in a next state, and so does every step, but for the one move the spec gives no step
(60_exceptions, section 5; that the move is a fault is the model's, log entry 6). -/
def Obligations.EveryCommandCompletes : Prop :=
  (∀ (i : Instr) (s : State), ∃ t, exec i s = .next t) ∧
  (∀ s : State, (∃ t, step s = .next t) ∨
    (step s = .fault .interfaceHazard ∧ ∃ rest, s.host = .overlap :: rest))

/-! ### The Checksum-4 engine -/

/-- R71: the nibble sum is the sum of all blocks, in any order; the sum of both nibbles of every byte; at most `30 n`; and
0 for no bytes. -/
def Obligations.NibbleSumAddsEveryBlock : Prop :=
  ∀ data : List Byte,
    (∀ order : List Nat, order.Perm (List.range (2 * data.length)) → nibbleSum data = (order.map (block data)).sum) ∧
    nibbleSum data = (data.map fun b => (b.extractLsb' 0 4).toNat + (b.extractLsb' 4 4).toNat).sum ∧
    (∀ data' : List Byte, data'.Perm data → nibbleSum data' = nibbleSum data) ∧
    nibbleSum data ≤ 30 * data.length ∧ nibbleSum [] = 0

/-- R73: the carry fold: no step on a sum of at most 15, else a step that makes the sum smaller; the result is at most 15,
and 0 only for 0; two steps are enough up to 255; and the worked fold of 239. -/
def Obligations.FoldUntilFourBits : Prop :=
  (∀ s : Nat, (s ≤ 15 → fold4 s = s) ∧
    (16 ≤ s → fold4 s = fold4 ((s &&& 0xF) + (s >>> 4)) ∧ (s &&& 0xF) + (s >>> 4) < s) ∧
    fold4 s ≤ 15 ∧ (fold4 s = 0 ↔ s = 0) ∧
    (s ≤ 255 → fold4 s = s ∨ fold4 s = (s &&& 0xF) + (s >>> 4) ∨
      fold4 s = (((s &&& 0xF) + (s >>> 4)) &&& 0xF) + (((s &&& 0xF) + (s >>> 4)) >>> 4))) ∧
  (239 &&& 0xF) + (239 >>> 4) = 29 ∧ (29 &&& 0xF) + (29 >>> 4) = 14 ∧ fold4 239 = 14

/-- R74: Variant A is the 4-bit complement of the folded nibble sum, as a byte with its upper 4 bits zero. -/
def Obligations.VariantAComplementsFold : Prop :=
  ∀ data : List Byte,
    cs4A data = (~~~(BitVec.ofNat 4 (fold4 (nibbleSum data)))).setWidth 8 ∧
    (cs4A data).toNat = 15 - fold4 (nibbleSum data) ∧ (cs4A data).extractLsb' 4 4 = 0#4

/-- R75: Variant B is the low byte of the raw nibble sum; for at most 8 bytes that is the sum itself. -/
def Obligations.VariantBIsRawSum : Prop :=
  ∀ data : List Byte,
    cs4B data = BitVec.ofNat 8 (nibbleSum data &&& 0xFF) ∧
    (data.length ≤ 8 → nibbleSum data ≤ 240 ∧ (cs4B data).toNat = nibbleSum data)

/-- The closed form of the fold, and what Variant A then is (40_checksum, section 1, law (c) of the laws the spec marks as
derived). -/
def Obligations.FoldClosedForm : Prop :=
  (∀ s : Nat, 1 ≤ s → fold4 s = (s - 1) % 15 + 1) ∧ fold4 0 = 0 ∧
  (∀ data : List Byte,
    (cs4A data = 0x0F#8 ↔ nibbleSum data = 0) ∧ (nibbleSum data = 0 ↔ ∀ b ∈ data, b = 0#8) ∧
    (cs4A data = 0x00#8 ↔ 0 < nibbleSum data ∧ nibbleSum data % 15 = 0) ∧
    (nibbleSum data % 15 ≠ 0 → (cs4A data).toNat = 15 - nibbleSum data % 15))

/-- Within the block's 8 bytes the two variants never agree; anywhere, an agreement needs a nibble sum of at least 263,
where they do agree (40_checksum, section 1, law (e), marked derived there; the byte count it adds is a slip, log entry
12: nine bytes can have that sum). -/
def Obligations.VariantsNeverAgree : Prop :=
  (∀ data : List Byte, data.length ≤ 8 → cs4A data ≠ cs4B data) ∧
  (∀ data : List Byte, cs4A data = cs4B data → 263 ≤ nibbleSum data) ∧
  (∀ data : List Byte, nibbleSum data = 263 → cs4A data = 0x07#8 ∧ cs4B data = 0x07#8)

/-- What neither variant detects: a reordering of the bytes, a swap of the nibbles of any bytes (40_checksum, section 1,
law (b), and 70_reset_and_hazards, section 3, both marked derived); Variant A neither any change of a non-zero sum by a
multiple of 15. -/
def Obligations.ChecksumBlindSpots : Prop :=
  (∀ data data' : List Byte, data'.Perm data → cs4A data' = cs4A data ∧ cs4B data' = cs4B data) ∧
  (∀ data data' : List Byte,
    List.Forall₂ (fun b b' => b' = b ∨ b' = b.extractLsb' 0 4 ++ b.extractLsb' 4 4) data data' →
    cs4A data' = cs4A data ∧ cs4B data' = cs4B data) ∧
  (∀ data data' : List Byte, 0 < nibbleSum data → 0 < nibbleSum data' →
    nibbleSum data % 15 = nibbleSum data' % 15 → cs4A data = cs4A data')

/-- R77, `CSUM.A` whole: result, failures, encoding, corner cases, worked example. The result is a completion statement
and its frame: nothing but the response port changes. -/
def Obligations.CsumAAnswersVariantA : Prop :=
  ∀ s : State,
    (∀ len ≤ 8, exec (.csumA len) s = .next { s with rsp := some { res := cs4A (s.din.toList.take len) } }) ∧
    (∀ len, 8 < len → exec (.csumA len) s = .next { s with rsp := some { status := .failure .lengthOutOfRange } }) ∧
    (∀ len ≤ 15, decode (0x1000#16 ||| (BitVec.ofNat 16 len <<< 8)) = .ok (.csumA len)) ∧
    (∀ len ≤ 15, ∀ (arg : Byte) (d : Vector Byte 8), arg ≠ 0 →
      issue ⟨0x1000#16 ||| (BitVec.ofNat 16 len <<< 8) ||| arg.setWidth 16, d⟩ s =
        .next { s with din := d, rsp := some { status := .failure .illegalCommand } }) ∧
    exec (.csumA 0) s = .next { s with rsp := some { res := 0x0F#8 } } ∧
    (∀ len ≤ 8, (∀ b ∈ s.din.toList.take len, b = 0#8) →
      exec (.csumA len) s = .next { s with rsp := some { res := 0x0F#8 } }) ∧
    ((∀ b ∈ s.din.toList, b = 0xFF#8) → exec (.csumA 8) s = .next { s with rsp := some { res := 0x00#8 } }) ∧
    (∀ len ≤ 8, ∀ d : Vector Byte 8, d.toList.take len = s.din.toList.take len →
      exec (.csumA len) { s with din := d } =
        .next { s with din := d, rsp := some { res := cs4A (s.din.toList.take len) } }) ∧
    (s.din.toList.take 2 = [0x12#8, 0x34#8] →
      decode 0x1200#16 = .ok (.csumA 2) ∧ nibbleSum (s.din.toList.take 2) = 10 ∧ fold4 10 = 10 ∧
      exec (.csumA 2) s = .next { s with rsp := some { res := 0x05#8 } })

/-- R78, `CSUM.B` whole: result, failures, encoding, corner cases, worked example; completion and frame as for `CSUM.A`. -/
def Obligations.CsumBAnswersVariantB : Prop :=
  ∀ s : State,
    (∀ len ≤ 8, exec (.csumB len) s = .next { s with rsp := some { res := cs4B (s.din.toList.take len) } }) ∧
    (∀ len, 8 < len → exec (.csumB len) s = .next { s with rsp := some { status := .failure .lengthOutOfRange } }) ∧
    (∀ len ≤ 15, decode (0x2000#16 ||| (BitVec.ofNat 16 len <<< 8)) = .ok (.csumB len)) ∧
    (∀ len ≤ 15, ∀ (arg : Byte) (d : Vector Byte 8), arg ≠ 0 →
      issue ⟨0x2000#16 ||| (BitVec.ofNat 16 len <<< 8) ||| arg.setWidth 16, d⟩ s =
        .next { s with din := d, rsp := some { status := .failure .illegalCommand } }) ∧
    exec (.csumB 0) s = .next { s with rsp := some { res := 0x00#8 } } ∧
    ((∀ b ∈ s.din.toList, b = 0xFF#8) → exec (.csumB 8) s = .next { s with rsp := some { res := 0xF0#8 } }) ∧
    (∀ len ≤ 8, cs4B (s.din.toList.take len) ≤ 0xF0#8 ∧
      (cs4B (s.din.toList.take len)).toNat = nibbleSum (s.din.toList.take len)) ∧
    (s.din.toList.take 2 = [0x12#8, 0x34#8] →
      decode 0x2200#16 = .ok (.csumB 2) ∧ nibbleSum (s.din.toList.take 2) = 10 ∧
      exec (.csumB 2) s = .next { s with rsp := some { res := 0x0A#8 } })

/-! ### The frame codec -/

/-- `fc_encode`: a payload of more than 6 bytes is refused; else the frame is counter, payload and the variant's checksum
over both, 2 to 8 bytes long, for every counter byte (41_frame_codec, section 1, with decision D30). -/
def Obligations.EncodeBuildsFrame : Prop :=
  ∀ (c : Byte) (payload : List Byte),
    (6 < payload.length → ∀ v, fcEncode v c payload = .error .payloadTooLarge) ∧
    (payload.length ≤ 6 →
      fcEncode .a c payload = .ok ([c] ++ payload ++ [cs4A ([c] ++ payload)]) ∧
      fcEncode .b c payload = .ok ([c] ++ payload ++ [cs4B ([c] ++ payload)]) ∧
      (∀ v frame, fcEncode v c payload = .ok frame →
        frame.length = payload.length + 2 ∧ 2 ≤ frame.length ∧ frame.length ≤ 8))

/-- `fc_decode`: a frame of fewer than 2 bytes is refused; else first byte, middle and last byte, whatever they are
(41_frame_codec, section 1, with decision D6 for the failure's name). -/
def Obligations.DecodeSplitsFrame : Prop :=
  ∀ frame : List Byte,
    (frame.length < 2 → fcDecode frame = .error .frameTooShort) ∧
    (2 ≤ frame.length → ∃ p, fcDecode frame = .ok p ∧ frame[0]? = some p.counter ∧
      p.payload = (frame.drop 1).take (frame.length - 2) ∧ frame[frame.length - 1]? = some p.checksum)

/-- The codec round trip in both directions (41_frame_codec, section 1; the spec marks it derived): decode gives back what
was encoded under either variant; the parts of any frame join to that frame; and encoding them again gives the frame
exactly if its checksum byte matches. -/
def Obligations.CodecRoundTrip : Prop :=
  (∀ (v : Variant) (c : Byte) (payload : List Byte), payload.length ≤ 6 →
    ∃ frame, fcEncode v c payload = .ok frame ∧ fcDecode frame = .ok ⟨c, payload, checksum v (c :: payload)⟩) ∧
  (∀ (v : Variant) (frame : List Byte) (p : Parts), frame.length ≤ 8 → fcDecode frame = .ok p →
    [p.counter] ++ p.payload ++ [p.checksum] = frame ∧
    (fcEncode v p.counter p.payload = .ok frame ↔ p.checksum = checksum v (p.counter :: p.payload)))

/-- R88, `ENC.A` whole: result, failure, encoding (no illegal word), corner cases, worked example; a completion statement
and its frame. -/
def Obligations.EncABuildsVariantAFrame : Prop :=
  ∀ s : State,
    (∀ len ≤ 6, ∀ c : Byte,
      fcEncode .a c (s.din.toList.take len) =
        .ok ([c] ++ s.din.toList.take len ++ [cs4A ([c] ++ s.din.toList.take len)]) ∧
      exec (.encA len c) s =
        .next { s with rsp := some { data := [c] ++ s.din.toList.take len ++ [cs4A ([c] ++ s.din.toList.take len)] } } ∧
      (Response.olen { data := [c] ++ s.din.toList.take len ++ [cs4A ([c] ++ s.din.toList.take len)] }).toNat =
        len + 2) ∧
    (∀ len, 6 < len → ∀ c : Byte,
      exec (.encA len c) s = .next { s with rsp := some { status := .failure .payloadTooLarge } } ∧
      Response.olen { status := .failure .payloadTooLarge } = 0) ∧
    (∀ len ≤ 15, ∀ c : Byte,
      decode (0x3000#16 ||| (BitVec.ofNat 16 len <<< 8) ||| c.setWidth 16) = .ok (.encA len c)) ∧
    (∀ c : Byte, exec (.encA 0 c) s = .next { s with rsp := some { data := [c, cs4A [c]] } }) ∧
    exec (.encA 0 0x00) s = .next { s with rsp := some { data := [0x00#8, 0x0F#8] } } ∧
    (∀ (c : Byte) (t : State) (r : Response),
      exec (.encA 6 c) s = .next t → t.rsp = some r → r.data.length = 8) ∧
    (s.din.toList.take 1 = [0x31#8] → decode 0x3101#16 = .ok (.encA 1 0x01) ∧
      exec (.encA 1 0x01) s = .next { s with rsp := some { data := [0x01#8, 0x31#8, 0x0A#8] } })

/-- `ENC.B`: result, failure, encoding, corner cases, worked example (41_frame_codec, section 2); a completion statement
and its frame. -/
def Obligations.EncBBuildsVariantBFrame : Prop :=
  ∀ s : State,
    (∀ len ≤ 6, ∀ c : Byte,
      exec (.encB len c) s =
        .next { s with rsp := some { data := [c] ++ s.din.toList.take len ++ [cs4B ([c] ++ s.din.toList.take len)] } } ∧
      (Response.olen { data := [c] ++ s.din.toList.take len ++ [cs4B ([c] ++ s.din.toList.take len)] }).toNat =
        len + 2) ∧
    (∀ len, 6 < len → ∀ c : Byte,
      exec (.encB len c) s = .next { s with rsp := some { status := .failure .payloadTooLarge } }) ∧
    (∀ len ≤ 15, ∀ c : Byte,
      decode (0x4000#16 ||| (BitVec.ofNat 16 len <<< 8) ||| c.setWidth 16) = .ok (.encB len c)) ∧
    exec (.encB 0 0x00) s = .next { s with rsp := some { data := [0x00#8, 0x00#8] } } ∧
    ((∀ b ∈ s.din.toList.take 6, b = 0xFF#8) →
      exec (.encB 6 0xFF) s =
        .next { s with rsp := some { data := [0xFF#8] ++ s.din.toList.take 6 ++ [0xD2#8] } }) ∧
    (∀ body : List Byte, body.length ≤ 7 → (cs4B body).toNat ≤ 0xD2) ∧
    (s.din.toList.take 2 = [0x12#8, 0x34#8] → decode 0x4200#16 = .ok (.encB 2 0x00) ∧
      exec (.encB 2 0x00) s = .next { s with rsp := some { data := [0x00#8, 0x12#8, 0x34#8, 0x0A#8] } })

/-- R90, `DEC` whole: result, failures, encoding, corner cases, worked example; a completion statement and its frame. -/
def Obligations.DecSplitsDin : Prop :=
  ∀ s : State,
    (∀ len, 2 ≤ len → len ≤ 8 →
      fcDecode (s.din.toList.take len) =
        .ok ⟨s.din.toList.getD 0 0, (s.din.toList.drop 1).take (len - 2), s.din.toList.getD (len - 1) 0⟩ ∧
      exec (.dec len) s =
        .next { s with rsp := some { ctr := s.din.toList.getD 0 0, res := s.din.toList.getD (len - 1) 0,
                                     data := (s.din.toList.drop 1).take (len - 2) } } ∧
      (Response.olen { data := (s.din.toList.drop 1).take (len - 2) }).toNat = len - 2) ∧
    (∀ len, len < 2 → exec (.dec len) s = .next { s with rsp := some { status := .failure .frameTooShort } }) ∧
    (∀ len, 8 < len → exec (.dec len) s = .next { s with rsp := some { status := .failure .lengthOutOfRange } }) ∧
    (∀ len ≤ 15, decode (0x5000#16 ||| (BitVec.ofNat 16 len <<< 8)) = .ok (.dec len)) ∧
    (∀ len ≤ 15, ∀ (arg : Byte) (d : Vector Byte 8), arg ≠ 0 →
      issue ⟨0x5000#16 ||| (BitVec.ofNat 16 len <<< 8) ||| arg.setWidth 16, d⟩ s =
        .next { s with din := d, rsp := some { status := .failure .illegalCommand } }) ∧
    exec (.dec 2) s =
      .next { s with rsp := some { ctr := s.din.toList.getD 0 0, res := s.din.toList.getD 1 0, data := [] } } ∧
    (∀ (t : State) (r : Response), exec (.dec 8) s = .next t → t.rsp = some r → r.data.length = 6) ∧
    (s.din.toList.take 3 = [0x01#8, 0x31#8, 0x0A#8] → decode 0x5300#16 = .ok (.dec 3) ∧
      exec (.dec 3) s = .next { s with rsp := some { ctr := 0x01#8, res := 0x0A#8, data := [0x31#8] } })

/-! ### The transmit side -/

/-- R100: the conditional advance: while `sent_count < 2` the counter moves to `(counter + 1) mod 255`, computed without
8-bit wrap, and `sent_count` with it; else neither moves; nothing else ever does; and the first value after reset is 1. -/
def Obligations.TxNextAdvancesTwice : Prop :=
  (∀ s : State,
    (s.sentCount.toNat < 2 →
      txNext s = { s with txCounter := BitVec.ofNat 8 ((s.txCounter.toNat + 1) % 255), sentCount := s.sentCount + 1 } ∧
      (txNext s).sentCount.toNat = s.sentCount.toNat + 1 ∧
      (s.txCounter.toNat = 254 → (txNext s).txCounter = 0) ∧ (s.txCounter.toNat = 255 → (txNext s).txCounter = 1)) ∧
    (2 ≤ s.sentCount.toNat → txNext s = s) ∧
    (s.sentCount.toNat ≤ 2 → (txNext s).sentCount.toNat ≤ 2) ∧
    exec .txnext s = .next { txNext s with rsp := some { ctr := (txNext s).txCounter } }) ∧
  (txNext State.reset).txCounter = 1 ∧
  (∀ (buf : List Byte) (t : State) (r : Response), buf ≠ [] → buf.length ≤ 4 →
    exec .txcommit { State.reset with txBuf := buf } = .next t → t.rsp = some r → r.data[0]? = some 1)

/-- `TXNEXT`: the advance, and the counter after it in the response (42_tx_sequence, section 1, with decision D26); a
completion statement and its frame. -/
def Obligations.TxnextAnswersNewCounter : Prop :=
  ∀ s : State,
    (s.sentCount.toNat < 2 → exec .txnext s =
      .next { s with txCounter := BitVec.ofNat 8 ((s.txCounter.toNat + 1) % 255), sentCount := s.sentCount + 1,
                     rsp := some { ctr := BitVec.ofNat 8 ((s.txCounter.toNat + 1) % 255) } }) ∧
    (2 ≤ s.sentCount.toNat → exec .txnext s = .next { s with rsp := some { ctr := s.txCounter } })

/-- From a counter and a gate of 0, the `n`-th call of `tx_next` returns 1, then 2, and 2 for ever (42_tx_sequence, section
1; the spec marks this as derived). -/
def Obligations.TxCounterSequence : Prop :=
  ∀ (s : State) (n : Nat), s.txCounter = 0 → s.sentCount = 0 →
    (txNext^[n] s).txCounter.toNat = min n 2 ∧ (txNext^[n] s).sentCount.toNat = min n 2 ∧
    ∀ m, 2 ≤ m → (txNext^[m] s).txCounter = 2

/-- R104, `TXAPPEND` whole: a buffer of fewer than 4 bytes grows by the character, a full one drops it with the same
response; encoding, failure and worked example; a completion statement and its frame. -/
def Obligations.TxappendKeepsOrDrops : Prop :=
  ∀ (s : State) (ch : Byte),
    (s.txBuf.length < 4 → exec (.txappend ch) s = .next { s with txBuf := s.txBuf ++ [ch], rsp := some {} }) ∧
    (4 ≤ s.txBuf.length → exec (.txappend ch) s = .next { s with rsp := some {} }) ∧
    decode (0x7000#16 ||| ch.setWidth 16) = .ok (.txappend ch) ∧
    (∀ len, 1 ≤ len → len ≤ 15 → ∀ d : Vector Byte 8,
      issue ⟨0x7000#16 ||| (BitVec.ofNat 16 len <<< 8) ||| ch.setWidth 16, d⟩ s =
        .next { s with din := d, rsp := some { status := .failure .illegalCommand } }) ∧
    (∀ d : Vector Byte 8,
      issue ⟨0x7031#16, d⟩ State.reset = .next { State.reset with din := d, txBuf := [0x31#8], rsp := some {} })

/-- After any number of appends to an empty buffer it holds the first four, in order (42_tx_sequence, section 2; the spec
marks this as derived). -/
def Obligations.AppendsKeepFirstFour : Prop :=
  ∀ (s : State) (chars : List Byte), s.txBuf = [] →
    (chars.foldl (fun t ch => appendChar ch t) s).txBuf = chars.take 4 ∧
    (∀ (t u : State) (ch : Byte), exec (.txappend ch) t = .next u → u.txBuf = (appendChar ch t).txBuf)

/-- `TXCOMMIT`: on an empty buffer nothing changes and there is no frame; else the counter advances first, the frame
carries its new value, the payload and the Variant A checksum, and the buffer is emptied (42_tx_sequence, section 3); a
completion statement and its frame. The buffer's length is at most 4 by `StepKeepsRegistersInRange`. -/
def Obligations.TxcommitSendsBuffer : Prop :=
  ∀ s : State,
    (s.txBuf = [] → exec .txcommit s = .next { s with rsp := some {} } ∧ Response.olen {} = 0) ∧
    (s.txBuf ≠ [] → s.txBuf.length ≤ 4 → s.sentCount.toNat < 2 →
      exec .txcommit s =
        .next { s with
          txCounter := BitVec.ofNat 8 ((s.txCounter.toNat + 1) % 255), sentCount := s.sentCount + 1, txBuf := [],
          rsp := some { data := [BitVec.ofNat 8 ((s.txCounter.toNat + 1) % 255)] ++ s.txBuf ++
                          [cs4A ([BitVec.ofNat 8 ((s.txCounter.toNat + 1) % 255)] ++ s.txBuf)] } }) ∧
    (s.txBuf ≠ [] → s.txBuf.length ≤ 4 → 2 ≤ s.sentCount.toNat →
      exec .txcommit s =
        .next { s with txBuf := [], rsp := some { data := [s.txCounter] ++ s.txBuf ++ [cs4A ([s.txCounter] ++ s.txBuf)] } })

/-- The frames `TXCOMMIT` can produce in a run from reset: sequence 1 while no advance was spent, whether on a frame or on
a `TXNEXT`, and 2 ever after; 1 to 4 payload bytes; a checksum of at most 0x0F over all bytes but itself (42_tx_sequence,
section 3, and 70_reset_and_hazards, section 3; the spec marks the rule as derived). -/
def Obligations.CommittedFramesAreBounded : Prop :=
  ∀ (s t : State) (r : Response), s.RunInv → s.txBuf ≠ [] → exec .txcommit s = .next t → t.rsp = some r →
    (s.sentCount = 0 → r.data[0]? = some 1) ∧ (s.sentCount ≠ 0 → r.data[0]? = some 2) ∧
    3 ≤ r.olen.toNat ∧ r.olen.toNat ≤ 6 ∧ r.olen.toNat = r.data.length ∧
    (∃ k, r.data[r.data.length - 1]? = some k ∧ k.toNat ≤ 0x0F ∧ k = cs4A (r.data.take (r.data.length - 1)))

/-! ### The receive side -/

/-- R122: the validation function, its stages in order: decode, sequence, Variant B checksum over all bytes but the last;
only an accepted frame writes registers. -/
def Obligations.ValidatorPipeline : Prop :=
  ∀ (s : State) (c k : Byte) (payload : List Byte),
    fcDecode ([c] ++ payload ++ [k]) = .ok ⟨c, payload, k⟩ ∧
    ([c] ++ payload ++ [k]).take (([c] ++ payload ++ [k]).length - 1) = [c] ++ payload ∧
    (c ≠ s.expectedCounter → fvValidate ([c] ++ payload ++ [k]) s = .ok (.sequenceMismatch, s)) ∧
    (c = s.expectedCounter → cs4B ([c] ++ payload) ≠ k →
      fvValidate ([c] ++ payload ++ [k]) s = .ok (.checksumMismatch, s)) ∧
    (c = s.expectedCounter → cs4B ([c] ++ payload) = k →
      fvValidate ([c] ++ payload ++ [k]) s =
        .ok (.accepted, { s with validCount := BitVec.ofNat 32 (min (s.validCount.toNat + 1) (2 ^ 32 - 1)),
                                 expectedCounter := BitVec.ofNat 8 ((c.toNat + 1) % 255) }))

/-- R121: the expected counter moves only when a frame is accepted, to the accepted sequence byte plus 1 modulo 255; from
254 to 0; and a sequence byte of 255 is never accepted while the counter is in 0..254. -/
def Obligations.ExpectedCounterRule : Prop :=
  (∀ (i : Instr) (s t : State), exec i s = .next t → t.expectedCounter ≠ s.expectedCounter →
    t.rsp = some { outcome := some .accepted }) ∧
  (∀ (len : Nat) (s t : State), exec (.rxval len) s = .next t → t.rsp = some { outcome := some .accepted } →
    s.din.toList.getD 0 0 = s.expectedCounter ∧
    t.expectedCounter = BitVec.ofNat 8 (((s.din.toList.getD 0 0).toNat + 1) % 255) ∧
    (s.din.toList.getD 0 0 = 254 → t.expectedCounter = 0)) ∧
  (∀ (len : Nat) (s t : State) (o : ValidationOutcome), exec (.rxval len) s = .next t →
    t.rsp = some { outcome := some o } → o ≠ .accepted →
    t.expectedCounter = s.expectedCounter ∧ t.validCount = s.validCount) ∧
  (∀ (len : Nat) (s : State), 2 ≤ len → len ≤ 8 → s.expectedCounter.toNat ≤ 254 → s.din.toList.getD 0 0 = 255 →
    exec (.rxval len) s = .next { s with ind := some .fault, rsp := some { outcome := some .sequenceMismatch } })

/-- `RXVAL`: the three outcomes with everything each one writes, and the two failures, which have no outcome and leave even
the indicator alone (43_rx_validator, section 3; the short frame is decision D15); a completion statement and its frame. -/
def Obligations.RxvalValidatesFrame : Prop :=
  ∀ (s : State) (len : Nat),
    (2 ≤ len → len ≤ 8 → s.din.toList.getD 0 0 ≠ s.expectedCounter →
      exec (.rxval len) s = .next { s with ind := some .fault, rsp := some { outcome := some .sequenceMismatch } }) ∧
    (2 ≤ len → len ≤ 8 → s.din.toList.getD 0 0 = s.expectedCounter →
      cs4B (s.din.toList.take (len - 1)) ≠ s.din.toList.getD (len - 1) 0 →
      exec (.rxval len) s = .next { s with ind := some .fault, rsp := some { outcome := some .checksumMismatch } }) ∧
    (2 ≤ len → len ≤ 8 → s.din.toList.getD 0 0 = s.expectedCounter →
      cs4B (s.din.toList.take (len - 1)) = s.din.toList.getD (len - 1) 0 →
      exec (.rxval len) s =
        .next { s with
          validCount := BitVec.ofNat 32 (min (s.validCount.toNat + 1) (2 ^ 32 - 1)),
          expectedCounter := BitVec.ofNat 8 ((s.expectedCounter.toNat + 1) % 255),
          ind := some (if s.validCount.toNat + 1 ≤ 2 then .ok else .fault),
          rsp := some { outcome := some .accepted } }) ∧
    (len < 2 → exec (.rxval len) s = .next { s with rsp := some { status := .failure .frameTooShort } }) ∧
    (8 < len → exec (.rxval len) s = .next { s with rsp := some { status := .failure .lengthOutOfRange } })

/-- R135: the indicator policy, evaluated with `valid_count` after the update; so from a fresh receiver the first two
accepted frames show OK and the third FAULT. -/
def Obligations.IndicatorPolicy : Prop :=
  (∀ vc : BitVec 32, indicator .sequenceMismatch vc = .fault ∧ indicator .checksumMismatch vc = .fault ∧
    (vc.toNat ≤ 2 → indicator .accepted vc = .ok) ∧ (2 < vc.toNat → indicator .accepted vc = .fault)) ∧
  (∀ (len : Nat) (s t : State) (o : ValidationOutcome), exec (.rxval len) s = .next t →
    t.rsp = some { outcome := some o } → t.ind = some (indicator o t.validCount)) ∧
  (∀ (len : Nat) (s t : State), s.validCount.toNat ≤ 2 → exec (.rxval len) s = .next t →
    t.rsp = some { outcome := some .accepted } →
    t.validCount.toNat = s.validCount.toNat + 1 ∧ t.ind = some (if s.validCount.toNat ≤ 1 then .ok else .fault))

/-- Once two frames have been accepted, every outcome shows FAULT, and nothing but a reset leads back (44_indicator; the
spec marks this as derived). -/
def Obligations.IndicatorLatchesFault : Prop :=
  (∀ (len : Nat) (s : State), 2 ≤ s.validCount.toNat → 2 ≤ len → len ≤ 8 →
    ∃ t, exec (.rxval len) s = .next t ∧ t.ind = some .fault ∧ 2 ≤ t.validCount.toNat) ∧
  (∀ s t : State, 2 ≤ s.validCount.toNat → (∀ rest, s.host ≠ .reset :: rest) → step s = .next t →
    2 ≤ t.validCount.toNat ∧ (t.ind ≠ s.ind → t.ind = some .fault))

/-! ### Failures and outcomes -/

/-- R146: `ENC.A` and `ENC.B` fail on more than 6 bytes and produce no frame; `TXCOMMIT` never raises that failure (its
buffer's length is at most 4 by `StepKeepsRegistersInRange`). -/
def Obligations.EncodeRefusesLargePayload : Prop :=
  (∀ (s : State) (c : Byte) (len : Nat), 7 ≤ len → len ≤ 15 →
    exec (.encA len c) s = .next { s with rsp := some { status := .failure .payloadTooLarge } } ∧
    exec (.encB len c) s = .next { s with rsp := some { status := .failure .payloadTooLarge } }) ∧
  (Status.failure .payloadTooLarge).code = 1 ∧ Response.olen { status := .failure .payloadTooLarge } = 0 ∧
  (∀ s : State, s.txBuf.length ≤ 4 → ∃ t r, exec .txcommit s = .next t ∧ t.rsp = some r ∧ r.status = .ok)

/-- The findings of one validation in the order of the pipeline (60_exceptions, section 4): a frame that does not decode
gets no outcome, and an `RXVAL` of fewer than 2 bytes fails as a command (decision D15); one that is wrong in the sequence
byte reports the sequence, whether or not its checksum is wrong too; and only one right in the sequence byte reports the
checksum. -/
def Obligations.SequenceReportedBeforeChecksum : Prop :=
  ∀ s : State,
    (∀ (frame : List Byte) (f : Failure), fcDecode frame = .error f → fvValidate frame s = .error f) ∧
    (∀ len < 2, exec (.rxval len) s = .next { s with rsp := some { status := .failure .frameTooShort } }) ∧
    (∀ len, 2 ≤ len → len ≤ 8 → s.din.toList.getD 0 0 ≠ s.expectedCounter →
      exec (.rxval len) s = .next { s with ind := some .fault, rsp := some { outcome := some .sequenceMismatch } }) ∧
    (∀ len, 2 ≤ len → len ≤ 8 → s.din.toList.getD 0 0 = s.expectedCounter →
      cs4B (s.din.toList.take (len - 1)) ≠ s.din.toList.getD (len - 1) 0 →
      exec (.rxval len) s = .next { s with ind := some .fault, rsp := some { outcome := some .checksumMismatch } })

/-- R161: a character beyond the buffer's capacity is dropped with status OK, no register changes, and the response is that
of a kept one. -/
def Obligations.BufferOverflowIsSilent : Prop :=
  ∀ (s : State) (ch : Byte), s.txBuf.length = 4 →
    exec (.txappend ch) s = .next { s with rsp := some { status := .ok } } ∧
    (∀ (s' t' : State) (ch' : Byte), exec (.txappend ch') s' = .next t' → t'.rsp = some { status := .ok })

/-- R150: an outcome comes only from `RXVAL`, with status OK; on a mismatch its only lasting effect is FAULT; the outcome
codes are 1, 2, 3. -/
def Obligations.OutcomesAreNotFailures : Prop :=
  (∀ (i : Instr) (s t : State) (r : Response) (o : ValidationOutcome), exec i s = .next t → t.rsp = some r →
    r.outcome = some o → r = { outcome := some o } ∧ (∃ len, i = .rxval len) ∧
    (o ≠ .accepted → t = { s with ind := some .fault, rsp := some { outcome := some o } })) ∧
  (∀ (len : Nat) (s t : State), exec (.rxval len) s = .next t →
    (t.rsp = some { outcome := some .sequenceMismatch } → s.din.toList.getD 0 0 ≠ s.expectedCounter) ∧
    (t.rsp = some { outcome := some .checksumMismatch } → s.din.toList.getD 0 0 = s.expectedCounter ∧
      cs4B (s.din.toList.take (len - 1)) ≠ s.din.toList.getD (len - 1) 0)) ∧
  outcomeCode none = 0 ∧ outcomeCode (some .sequenceMismatch) = 1 ∧ outcomeCode (some .checksumMismatch) = 2 ∧
  outcomeCode (some .accepted) = 3

/-- A failing command writes no register and answers its status alone, and any command after it ends exactly as if the
failing one had not been issued (60_exceptions, section 5, with decision D7). -/
def Obligations.FailureChangesNoRegister : Prop :=
  (∀ (i : Instr) (s t : State) (r : Response) (f : Failure), exec i s = .next t → t.rsp = some r →
    r.status = .failure f → t = { s with rsp := some { status := .failure f } }) ∧
  (∀ (c : Command) (s t : State) (r : Response) (f : Failure), issue c s = .next t → t.rsp = some r →
    r.status = .failure f →
    t = { s with din := c.data, rsp := some { status := .failure f } } ∧ ∀ c', issue c' t = issue c' s)

/-! ### Frames of whole families, independence, invariants -/

/-- The stateless commands change nothing but the response port (00_scope, section 4, with decision D2). -/
def Obligations.StatelessCommandsFrame : Prop :=
  ∀ (s t : State) (len : Nat) (c : Byte),
    exec (.csumA len) s = .next t ∨ exec (.csumB len) s = .next t ∨ exec (.encA len c) s = .next t ∨
      exec (.encB len c) s = .next t ∨ exec (.dec len) s = .next t →
    s.SameRegisters t ∧ s.SameHostSide t

/-- The transmit-side commands leave the receive side as it is, `TXNEXT` the buffer too, `TXAPPEND` both counters, and
`TXCOMMIT` everything if the buffer is empty (00_scope, section 4, with decision D2). -/
def Obligations.TransmitCommandsFrame : Prop :=
  ∀ (s t : State) (ch : Byte),
    (exec .txnext s = .next t ∨ exec (.txappend ch) s = .next t ∨ exec .txcommit s = .next t →
      s.SameReceive t ∧ s.SameHostSide t) ∧
    (exec .txnext s = .next t → t.txBuf = s.txBuf) ∧
    (exec (.txappend ch) s = .next t → t.txCounter = s.txCounter ∧ t.sentCount = s.sentCount) ∧
    (exec .txcommit s = .next t → s.txBuf = [] → s.SameRegisters t)

/-- `RXVAL` leaves the transmit side as it is, and both receive counters unless the frame is accepted (00_scope, section 4,
with decision D2). -/
def Obligations.RxvalFrame : Prop :=
  ∀ (s t : State) (len : Nat), exec (.rxval len) s = .next t →
    s.SameTransmit t ∧ s.SameHostSide t ∧
    (t.rsp ≠ some { outcome := some .accepted } →
      t.expectedCounter = s.expectedCounter ∧ t.validCount = s.validCount)

/-- A command's effect and response depend on the six registers and its own data alone: no earlier response, no other host
move, no hidden state (10_state, section 5; 20_memory, section 4). -/
def Obligations.CommandsForgetThePast : Prop :=
  ∀ (i : Instr) (s s' t : State), s.SameRegisters s' → s.din = s'.din → exec i s = .next t →
    ∃ t', exec i s' = .next t' ∧ t.SameRegisters t' ∧ t.rsp = t'.rsp

/-- Bytes of `DIN` at index `LEN` and above have no effect on registers or response, and a command without a data operand
ignores `DIN` (20_memory, section 1, with decision D8). -/
def Obligations.DinBeyondOperandIgnored : Prop :=
  ∀ (i : Instr) (s t : State) (d : Vector Byte 8),
    d.toList.take (dinUse i) = s.din.toList.take (dinUse i) → exec i s = .next t →
    exec i { s with din := d } = .next { t with din := d }

/-- Without a reset `valid_count` and `sent_count` never fall; each sequence counter stays or moves to itself plus 1 modulo
255 (which is 0 after 254), the transmit counter not once it is frozen, the expected counter only on an accepted frame
(70_reset_and_hazards, section 1; 42_tx_sequence and 43_rx_validator, section 1). -/
def Obligations.CountsNeverFallWithoutReset : Prop :=
  ∀ s t : State, (∀ rest, s.host ≠ .reset :: rest) → step s = .next t →
    s.validCount.toNat ≤ t.validCount.toNat ∧ s.sentCount.toNat ≤ t.sentCount.toNat ∧
    (t.txCounter ≠ s.txCounter → t.txCounter.toNat = (s.txCounter.toNat + 1) % 255) ∧
    (t.expectedCounter ≠ s.expectedCounter → t.expectedCounter.toNat = (s.expectedCounter.toNat + 1) % 255) ∧
    (2 ≤ s.sentCount.toNat → t.txCounter = s.txCounter ∧ t.sentCount = s.sentCount) ∧
    (t.expectedCounter ≠ s.expectedCounter → t.rsp = some { outcome := some .accepted })

/-- Every step keeps every register in its legal range (10_state, section 5, (a), (b), (d)). -/
def Obligations.StepKeepsRegistersInRange : Prop :=
  ∀ s t : State, s.InRange → step s = .next t → t.InRange

/-- Every step keeps the relations between the registers that hold from reset (10_state, section 5, (c), (e); the expected
counter as a function of the frames accepted: 43_rx_validator, section 4; both marked derived there). -/
def Obligations.StepKeepsRunInvariant : Prop :=
  ∀ s t : State, s.RunInv → step s = .next t → t.RunInv

/-- The state after reset meets both invariants (10_state, section 5). -/
def Obligations.ResetMeetsInvariants : Prop :=
  State.reset.InRange ∧ State.reset.RunInv

/-! ### The two nodes -/

/-- A frame that `TXCOMMIT` or `ENC.A` produces is never accepted by any receiver it reaches uncorrupted: it reports the
sequence if that differs, and the checksum if not (43_rx_validator, section 4; the spec marks this as derived). -/
def Obligations.TransmitterFrameNeverAccepted : Prop :=
  ∀ (s t rx : State) (i : Instr) (r : Response),
    (i = .txcommit ∨ ∃ len c, i = .encA len c) → exec i s = .next t → t.rsp = some r → r.data ≠ [] →
    rx.din.toList.take r.data.length = r.data →
    (r.data[0]? ≠ some rx.expectedCounter → exec (.rxval r.data.length) rx =
      .next { rx with ind := some .fault, rsp := some { outcome := some .sequenceMismatch } }) ∧
    (r.data[0]? = some rx.expectedCounter → exec (.rxval r.data.length) rx =
      .next { rx with ind := some .fault, rsp := some { outcome := some .checksumMismatch } })

/-- A frame that `ENC.B` produces with the receiver's expected counter is accepted (43_rx_validator, section 4, last
sentence of its last rule, marked derived there). -/
def Obligations.VariantBFrameAccepted : Prop :=
  ∀ (s rx : State) (len : Nat), len ≤ 6 →
    ∃ (t : State) (r : Response), exec (.encB len rx.expectedCounter) s = .next t ∧ t.rsp = some r ∧
      r.data.length = len + 2 ∧
      (rx.din.toList.take (len + 2) = r.data →
        ∃ u, exec (.rxval (len + 2)) rx = .next u ∧ u.rsp = some { outcome := some .accepted })

/-- Every move on the link keeps its invariant: the frames sent end in Variant A checksums, and the receiver accepts nothing
(43_rx_validator, section 4, marked derived there; that the link is a bus that loses, repeats and reorders but does not
corrupt is the model's, log entry 15). -/
def Obligations.LinkMoveKeepsInvariant : Prop :=
  ∀ (l : Link) (m : LinkMove), l.Inv → (l.move m).Inv

/-- Both nodes after reset, with nothing sent, meet the link's invariant (70_reset_and_hazards, section 1; log entry 15). -/
def Obligations.LinkResetMeetsInvariant : Prop := Link.reset.Inv

/-- The loop-back: from reset, whatever the transmitter's host issues, whichever of its `TXCOMMIT` and `ENC.A` frames the
bus loses, repeats or reorders, and whichever node is reset, the receiver never accepts a frame: its counters stay 0 and
its indicator never shows OK (43_rx_validator, section 4; 70_reset_and_hazards, section 3; marked derived there; the link is
the model's, log entry 15). -/
def Obligations.LoopBackNeverAccepts : Prop :=
  ∀ moves : List LinkMove,
    (moves.foldl Link.move Link.reset).nodes.receiver.expectedCounter = 0 ∧
    (moves.foldl Link.move Link.reset).nodes.receiver.validCount = 0 ∧
    (moves.foldl Link.move Link.reset).nodes.receiver.ind ≠ some .ok

/-- A step of one node, a reset of it included, leaves the other node's block as it was (70_reset_and_hazards, section 3;
20_memory, section 4). -/
def Obligations.NodesShareNoState : Prop :=
  ∀ (y z : System),
    (y.stepNode .transmitter = .next z → z.receiver = y.receiver ∧ step y.transmitter = .next z.transmitter) ∧
    (y.stepNode .receiver = .next z → z.transmitter = y.transmitter ∧ step y.receiver = .next z.receiver)

/-! ### Ports and the host's side -/

/-- The codes of status, outcome and indicator are those of the tables, each value one code (30_encoding, section 4, with
decisions D6 and D16). -/
def Obligations.PortCodes : Prop :=
  Status.ok.code = 0 ∧ (Status.failure .payloadTooLarge).code = 1 ∧ (Status.failure .frameTooShort).code = 2 ∧
  (Status.failure .lengthOutOfRange).code = 3 ∧ (Status.failure .illegalCommand).code = 4 ∧
  (∀ st : Status, st.code.toNat ≤ 4) ∧
  outcomeCode none = 0 ∧ outcomeCode (some .sequenceMismatch) = 1 ∧ outcomeCode (some .checksumMismatch) = 2 ∧
  outcomeCode (some .accepted) = 3 ∧
  (∀ s : State, (stInd s = 0b00#2 ↔ s.ind = none) ∧ (stInd s = 0b10#2 ↔ s.ind = some .ok) ∧
    (stInd s = 0b11#2 ↔ s.ind = some .fault) ∧ stInd s ≠ 0b01#2 ∧
    (s.txBuf.length ≤ 4 → (stTxBufLen s).toNat = s.txBuf.length))

/-- Byte `i` of a buffer is bits `[8i+7 : 8i]` of its 64-bit port; on the response port the bytes past the data read 0; and
a port carries all eight bytes of `DIN` (20_memory, sections 1 and 2, with decision D25). -/
def Obligations.BuffersOnPorts : Prop :=
  (∀ (r : Response) (i : Nat), r.data.length ≤ 8 → i < 8 → portByte r.dataPort i = r.data.getD i 0) ∧
  (∀ (p : BitVec 64) (i : Nat), i < 8 → (dinOfPort p).toList.getD i 0 = p.extractLsb' (8 * i) 8) ∧
  (∀ d : Vector Byte 8, dinOfPort (portOfBytes d.toList) = d)

/-- A line of assembler text stands for a command whose word decodes to what the line names, with the listed bytes in order
and zeros after them; the key `#` is `TXCOMMIT` and every other key of the model `TXAPPEND` (30_encoding, section 5, with
decisions D17 and D29). The model's keys are the commit key and one per byte, where the spec leaves `KEY` undefined for the
cancel key and for what the keypad cannot produce (log entry 18); that a line is a value of a type is the model's too (log
entry 19). -/
def Obligations.AssemblerLines : Prop :=
  (∀ (l : AsmLine) (c : Command), assemble l = some c →
    decode c.word = .ok l.instr ∧ ∀ i < 8, c.data.toList.getD i 0 = l.bytes.getD i 0) ∧
  (∀ (l : AsmLine), l.bytes.length ≤ 8 → l.instr.WellFormed → ∃ c, assemble l = some c) ∧
  (AsmLine.key .commit).instr = .txcommit ∧ (∀ ch, (AsmLine.key (.char ch)).instr = .txappend ch)
end

