-- ==== Sys2Proof/Laws/State.lean ====
section
/-! SUPPORT. What each named write of Machine/Ops.lean does to each field of the state, one lemma per write and field, so
that no proof unfolds a record update. -/

namespace Sys2Proof.Machine

/-! ### `State.withTxCounter` -/

@[simp] theorem State.withTxCounter_txCounter (s : State) (v : Byte) : (s.withTxCounter v).txCounter = v := rfl
@[simp] theorem State.withTxCounter_sentCount (s : State) (v : Byte) : (s.withTxCounter v).sentCount = s.sentCount := rfl
@[simp] theorem State.withTxCounter_txBuf (s : State) (v : Byte) : (s.withTxCounter v).txBuf = s.txBuf := rfl
@[simp] theorem State.withTxCounter_expectedCounter (s : State) (v : Byte) : (s.withTxCounter v).expectedCounter = s.expectedCounter := rfl
@[simp] theorem State.withTxCounter_validCount (s : State) (v : Byte) : (s.withTxCounter v).validCount = s.validCount := rfl
@[simp] theorem State.withTxCounter_ind (s : State) (v : Byte) : (s.withTxCounter v).ind = s.ind := rfl
@[simp] theorem State.withTxCounter_rsp (s : State) (v : Byte) : (s.withTxCounter v).rsp = s.rsp := rfl
@[simp] theorem State.withTxCounter_din (s : State) (v : Byte) : (s.withTxCounter v).din = s.din := rfl
@[simp] theorem State.withTxCounter_host (s : State) (v : Byte) : (s.withTxCounter v).host = s.host := rfl

/-! ### `State.withSentCount` -/

@[simp] theorem State.withSentCount_txCounter (s : State) (v : BitVec Config.sentWidth) : (s.withSentCount v).txCounter = s.txCounter := rfl
@[simp] theorem State.withSentCount_sentCount (s : State) (v : BitVec Config.sentWidth) : (s.withSentCount v).sentCount = v := rfl
@[simp] theorem State.withSentCount_txBuf (s : State) (v : BitVec Config.sentWidth) : (s.withSentCount v).txBuf = s.txBuf := rfl
@[simp] theorem State.withSentCount_expectedCounter (s : State) (v : BitVec Config.sentWidth) : (s.withSentCount v).expectedCounter = s.expectedCounter := rfl
@[simp] theorem State.withSentCount_validCount (s : State) (v : BitVec Config.sentWidth) : (s.withSentCount v).validCount = s.validCount := rfl
@[simp] theorem State.withSentCount_ind (s : State) (v : BitVec Config.sentWidth) : (s.withSentCount v).ind = s.ind := rfl
@[simp] theorem State.withSentCount_rsp (s : State) (v : BitVec Config.sentWidth) : (s.withSentCount v).rsp = s.rsp := rfl
@[simp] theorem State.withSentCount_din (s : State) (v : BitVec Config.sentWidth) : (s.withSentCount v).din = s.din := rfl
@[simp] theorem State.withSentCount_host (s : State) (v : BitVec Config.sentWidth) : (s.withSentCount v).host = s.host := rfl

/-! ### `State.withTxBuf` -/

@[simp] theorem State.withTxBuf_txCounter (s : State) (v : List Byte) : (s.withTxBuf v).txCounter = s.txCounter := rfl
@[simp] theorem State.withTxBuf_sentCount (s : State) (v : List Byte) : (s.withTxBuf v).sentCount = s.sentCount := rfl
@[simp] theorem State.withTxBuf_txBuf (s : State) (v : List Byte) : (s.withTxBuf v).txBuf = v := rfl
@[simp] theorem State.withTxBuf_expectedCounter (s : State) (v : List Byte) : (s.withTxBuf v).expectedCounter = s.expectedCounter := rfl
@[simp] theorem State.withTxBuf_validCount (s : State) (v : List Byte) : (s.withTxBuf v).validCount = s.validCount := rfl
@[simp] theorem State.withTxBuf_ind (s : State) (v : List Byte) : (s.withTxBuf v).ind = s.ind := rfl
@[simp] theorem State.withTxBuf_rsp (s : State) (v : List Byte) : (s.withTxBuf v).rsp = s.rsp := rfl
@[simp] theorem State.withTxBuf_din (s : State) (v : List Byte) : (s.withTxBuf v).din = s.din := rfl
@[simp] theorem State.withTxBuf_host (s : State) (v : List Byte) : (s.withTxBuf v).host = s.host := rfl

/-! ### `State.withExpectedCounter` -/

@[simp] theorem State.withExpectedCounter_txCounter (s : State) (v : Byte) : (s.withExpectedCounter v).txCounter = s.txCounter := rfl
@[simp] theorem State.withExpectedCounter_sentCount (s : State) (v : Byte) : (s.withExpectedCounter v).sentCount = s.sentCount := rfl
@[simp] theorem State.withExpectedCounter_txBuf (s : State) (v : Byte) : (s.withExpectedCounter v).txBuf = s.txBuf := rfl
@[simp] theorem State.withExpectedCounter_expectedCounter (s : State) (v : Byte) : (s.withExpectedCounter v).expectedCounter = v := rfl
@[simp] theorem State.withExpectedCounter_validCount (s : State) (v : Byte) : (s.withExpectedCounter v).validCount = s.validCount := rfl
@[simp] theorem State.withExpectedCounter_ind (s : State) (v : Byte) : (s.withExpectedCounter v).ind = s.ind := rfl
@[simp] theorem State.withExpectedCounter_rsp (s : State) (v : Byte) : (s.withExpectedCounter v).rsp = s.rsp := rfl
@[simp] theorem State.withExpectedCounter_din (s : State) (v : Byte) : (s.withExpectedCounter v).din = s.din := rfl
@[simp] theorem State.withExpectedCounter_host (s : State) (v : Byte) : (s.withExpectedCounter v).host = s.host := rfl

/-! ### `State.withValidCount` -/

@[simp] theorem State.withValidCount_txCounter (s : State) (v : BitVec Config.validWidth) : (s.withValidCount v).txCounter = s.txCounter := rfl
@[simp] theorem State.withValidCount_sentCount (s : State) (v : BitVec Config.validWidth) : (s.withValidCount v).sentCount = s.sentCount := rfl
@[simp] theorem State.withValidCount_txBuf (s : State) (v : BitVec Config.validWidth) : (s.withValidCount v).txBuf = s.txBuf := rfl
@[simp] theorem State.withValidCount_expectedCounter (s : State) (v : BitVec Config.validWidth) : (s.withValidCount v).expectedCounter = s.expectedCounter := rfl
@[simp] theorem State.withValidCount_validCount (s : State) (v : BitVec Config.validWidth) : (s.withValidCount v).validCount = v := rfl
@[simp] theorem State.withValidCount_ind (s : State) (v : BitVec Config.validWidth) : (s.withValidCount v).ind = s.ind := rfl
@[simp] theorem State.withValidCount_rsp (s : State) (v : BitVec Config.validWidth) : (s.withValidCount v).rsp = s.rsp := rfl
@[simp] theorem State.withValidCount_din (s : State) (v : BitVec Config.validWidth) : (s.withValidCount v).din = s.din := rfl
@[simp] theorem State.withValidCount_host (s : State) (v : BitVec Config.validWidth) : (s.withValidCount v).host = s.host := rfl

/-! ### `State.withInd` -/

@[simp] theorem State.withInd_txCounter (s : State) (v : Indicator) : (s.withInd v).txCounter = s.txCounter := rfl
@[simp] theorem State.withInd_sentCount (s : State) (v : Indicator) : (s.withInd v).sentCount = s.sentCount := rfl
@[simp] theorem State.withInd_txBuf (s : State) (v : Indicator) : (s.withInd v).txBuf = s.txBuf := rfl
@[simp] theorem State.withInd_expectedCounter (s : State) (v : Indicator) : (s.withInd v).expectedCounter = s.expectedCounter := rfl
@[simp] theorem State.withInd_validCount (s : State) (v : Indicator) : (s.withInd v).validCount = s.validCount := rfl
@[simp] theorem State.withInd_ind (s : State) (v : Indicator) : (s.withInd v).ind = some v := rfl
@[simp] theorem State.withInd_rsp (s : State) (v : Indicator) : (s.withInd v).rsp = s.rsp := rfl
@[simp] theorem State.withInd_din (s : State) (v : Indicator) : (s.withInd v).din = s.din := rfl
@[simp] theorem State.withInd_host (s : State) (v : Indicator) : (s.withInd v).host = s.host := rfl

/-! ### `State.withRsp` -/

@[simp] theorem State.withRsp_txCounter (s : State) (v : Response) : (s.withRsp v).txCounter = s.txCounter := rfl
@[simp] theorem State.withRsp_sentCount (s : State) (v : Response) : (s.withRsp v).sentCount = s.sentCount := rfl
@[simp] theorem State.withRsp_txBuf (s : State) (v : Response) : (s.withRsp v).txBuf = s.txBuf := rfl
@[simp] theorem State.withRsp_expectedCounter (s : State) (v : Response) : (s.withRsp v).expectedCounter = s.expectedCounter := rfl
@[simp] theorem State.withRsp_validCount (s : State) (v : Response) : (s.withRsp v).validCount = s.validCount := rfl
@[simp] theorem State.withRsp_ind (s : State) (v : Response) : (s.withRsp v).ind = s.ind := rfl
@[simp] theorem State.withRsp_rsp (s : State) (v : Response) : (s.withRsp v).rsp = some v := rfl
@[simp] theorem State.withRsp_din (s : State) (v : Response) : (s.withRsp v).din = s.din := rfl
@[simp] theorem State.withRsp_host (s : State) (v : Response) : (s.withRsp v).host = s.host := rfl

/-! ### `State.withDin` -/

@[simp] theorem State.withDin_txCounter (s : State) (v : Vector Byte Config.dbufSize) : (s.withDin v).txCounter = s.txCounter := rfl
@[simp] theorem State.withDin_sentCount (s : State) (v : Vector Byte Config.dbufSize) : (s.withDin v).sentCount = s.sentCount := rfl
@[simp] theorem State.withDin_txBuf (s : State) (v : Vector Byte Config.dbufSize) : (s.withDin v).txBuf = s.txBuf := rfl
@[simp] theorem State.withDin_expectedCounter (s : State) (v : Vector Byte Config.dbufSize) : (s.withDin v).expectedCounter = s.expectedCounter := rfl
@[simp] theorem State.withDin_validCount (s : State) (v : Vector Byte Config.dbufSize) : (s.withDin v).validCount = s.validCount := rfl
@[simp] theorem State.withDin_ind (s : State) (v : Vector Byte Config.dbufSize) : (s.withDin v).ind = s.ind := rfl
@[simp] theorem State.withDin_rsp (s : State) (v : Vector Byte Config.dbufSize) : (s.withDin v).rsp = s.rsp := rfl
@[simp] theorem State.withDin_din (s : State) (v : Vector Byte Config.dbufSize) : (s.withDin v).din = v := rfl
@[simp] theorem State.withDin_host (s : State) (v : Vector Byte Config.dbufSize) : (s.withDin v).host = s.host := rfl

/-! ### `State.withHost` -/

@[simp] theorem State.withHost_txCounter (s : State) (v : List HostInput) : (s.withHost v).txCounter = s.txCounter := rfl
@[simp] theorem State.withHost_sentCount (s : State) (v : List HostInput) : (s.withHost v).sentCount = s.sentCount := rfl
@[simp] theorem State.withHost_txBuf (s : State) (v : List HostInput) : (s.withHost v).txBuf = s.txBuf := rfl
@[simp] theorem State.withHost_expectedCounter (s : State) (v : List HostInput) : (s.withHost v).expectedCounter = s.expectedCounter := rfl
@[simp] theorem State.withHost_validCount (s : State) (v : List HostInput) : (s.withHost v).validCount = s.validCount := rfl
@[simp] theorem State.withHost_ind (s : State) (v : List HostInput) : (s.withHost v).ind = s.ind := rfl
@[simp] theorem State.withHost_rsp (s : State) (v : List HostInput) : (s.withHost v).rsp = s.rsp := rfl
@[simp] theorem State.withHost_din (s : State) (v : List HostInput) : (s.withHost v).din = s.din := rfl
@[simp] theorem State.withHost_host (s : State) (v : List HostInput) : (s.withHost v).host = v := rfl

end Sys2Proof.Machine
end

