-- ==== Sys2Proof/Laws/Ops.lean ====
section
/-! SUPPORT. What the shared operations can do, said once: answering and failing a command, the reset, the counters'
arithmetic, the `DIN` operand. -/

namespace Sys2Proof.Machine

/-- A command that answers ends in a next state, and only the response port changes. -/
theorem respond_eq_next {r : Response} {s t : State} : respond r s = .next t ↔ t = s.withRsp r := by
  simp [respond, eq_comm]

/-- A failing command ends in a next state, and only the response port changes, to the status alone (R154). -/
theorem raise_eq_next {f : Failure} {s t : State} : raise f s = .next t ↔ t = s.withRsp { status := .failure f } := by
  simp [raise, eq_comm]

/-- Writing the response twice keeps the second. -/
@[simp] theorem State.withRsp_withRsp (s : State) (r r' : Response) : (s.withRsp r).withRsp r' = s.withRsp r' := rfl

/-- Presenting data twice keeps the second. -/
@[simp] theorem State.withDin_withDin (s : State) (d d' : Vector Byte Config.dbufSize) :
    (s.withDin d).withDin d' = s.withDin d' := rfl

/-- What the reset event leaves (R165, R167). -/
theorem resetBlock_eq (s : State) :
    resetBlock s =
      { txCounter := 0, sentCount := 0, txBuf := [], expectedCounter := 0, validCount := 0, ind := none,
        din := s.din, rsp := none, host := s.host } := rfl

/-- The counters' increment as a number (R100, R121). -/
theorem seqNext_toNat (v : Byte) : (seqNext v).toNat = (v.toNat + 1) % 255 := by
  have : (v.toNat + 1) % 255 < 255 := Nat.mod_lt _ (by decide)
  simp only [seqNext, seqMod, BitVec.toNat_ofNat]
  omega

/-- A sequence counter never takes the value 255 (R20 (a)). -/
theorem seqNext_le (v : Byte) : (seqNext v).toNat ≤ 254 := by
  have := Nat.mod_lt (v.toNat + 1) (show 255 > 0 by decide)
  rw [seqNext_toNat]
  omega

/-- The saturating increment as a number (R16). -/
theorem satIncr_toNat (v : BitVec Config.validWidth) : (satIncr v).toNat = min (v.toNat + 1) (2 ^ 32 - 1) := by
  have : min (v.toNat + 1) (2 ^ 32 - 1) < 2 ^ 32 := by omega
  simp only [satIncr, BitVec.toNat_ofNat]
  exact Nat.mod_eq_of_lt this

/-- `DIN` has eight bytes (R30). -/
theorem length_din (d : Vector Byte Config.dbufSize) : d.toList.length = 8 := Vector.length_toList

/-- The operand has `len` bytes, unless `DIN` ends first (R30, R38). -/
theorem length_dinBytes (s : State) (len : Nat) : (dinBytes s len).length = min len 8 := by
  simp [dinBytes]

/-- The operand depends on nothing but `DIN`. -/
theorem dinBytes_congr {s t : State} (h : s.din = t.din) (len : Nat) : dinBytes s len = dinBytes t len := by
  simp [dinBytes, h]

end Sys2Proof.Machine
end

