-- ==== Sys2Proof/Laws/Checksum.lean ====
section
/-! SUPPORT. Facts about CS4 that the proofs cite instead of unfolding it: bounds of nibbles and sums, the folding step,
and what the two checksum commands can answer. -/

namespace Sys2Proof.Machine

/-- A nibble is the remainder of the byte modulo 16 (R5). -/
theorem lowNibble_eq (b : Byte) : lowNibble b = b.toNat % 16 := Nat.and_two_pow_sub_one_eq_mod b.toNat 4

/-- The other nibble is the quotient by 16 (R5). -/
theorem highNibble_eq (b : Byte) : highNibble b = b.toNat / 16 := by
  have h : highNibble b = (b.toNat / 16) % 16 := by
    simp [highNibble, Nat.shiftRight_eq_div_pow, Nat.and_two_pow_sub_one_eq_mod _ 4]
  rw [h]
  omega

/-- The folding step in arithmetic terms (R73). -/
theorem foldStep_eq (s : Nat) : foldStep s = s % 16 + s / 16 := by
  simp [foldStep, Nat.shiftRight_eq_div_pow, Nat.and_two_pow_sub_one_eq_mod _ 4]

/-- A folding step of a sum that does not fit makes it smaller, and not 0. -/
theorem foldStep_lt {s : Nat} (h : 16 ≤ s) : foldStep s < s ∧ 0 < foldStep s := by
  rw [foldStep_eq]
  omega

/-- Fuel beyond the sum makes no difference. -/
theorem foldFuel_eq (fuel s : Nat) (h : s ≤ fuel) : foldFuel fuel s = fold4 s := by
  induction s using Nat.strongRecOn generalizing fuel with
  | _ s ih =>
    rcases fuel with _ | fuel
    · obtain rfl : s = 0 := by omega
      rfl
    · rcases s with _ | s
      · simp [foldFuel, fold4]
      · by_cases hs : s + 1 ≤ nibbleMask
        · simp [foldFuel, fold4, hs]
        · have hlt := (foldStep_lt (s := s + 1) (by simp only [nibbleMask] at hs; omega)).1
          simp only [foldFuel, fold4, hs, if_false]
          rw [ih _ hlt fuel (by omega), ih _ hlt s (by omega)]

/-- The recursion of the carry fold. -/
theorem fold4_eq (s : Nat) : fold4 s = if s ≤ 15 then s else fold4 (foldStep s) := by
  split
  · rename_i h
    rcases s with _ | s
    · rfl
    · simp [fold4, foldFuel, h]
  · rename_i h
    rcases s with _ | s
    · omega
    · have hlt := (foldStep_lt (s := s + 1) (by omega)).1
      have : fold4 (s + 1) = foldFuel s (foldStep (s + 1)) := by simp [fold4, foldFuel, h]
      rw [this, foldFuel_eq _ _ (by omega)]

/-- What `CSUM.A` can do: fail on the length, or answer the checksum; nothing else changes. -/
theorem execCsumA_eq_next {len : Nat} {s t : State} :
    execCsumA len s = .next t ↔
      (8 < len ∧ t = s.withRsp { status := .failure .lengthOutOfRange }) ∨
      (len ≤ 8 ∧ t = s.withRsp { res := cs4A (dinBytes s len) }) := by
  unfold execCsumA
  split <;> rename_i h
  · simp [raise_eq_next, h, Nat.not_le.mpr h]
  · simp [respond_eq_next, h, Nat.not_lt.mp h]

/-- What `CSUM.B` can do. -/
theorem execCsumB_eq_next {len : Nat} {s t : State} :
    execCsumB len s = .next t ↔
      (8 < len ∧ t = s.withRsp { status := .failure .lengthOutOfRange }) ∨
      (len ≤ 8 ∧ t = s.withRsp { res := cs4B (dinBytes s len) }) := by
  unfold execCsumB
  split <;> rename_i h
  · simp [raise_eq_next, h, Nat.not_le.mpr h]
  · simp [respond_eq_next, h, Nat.not_lt.mp h]

end Sys2Proof.Machine
end

