-- ==== Sys2Proof/Laws/Commands.lean ====
section
/-! SUPPORT. For each function of the codec, the transmitter and the validator, and for each command built on them, one
lemma that says everything it can do. -/

namespace Sys2Proof.Machine

/-! ### Frame codec -/

/-- Splitting a frame whose parts are given (R86). -/
theorem fcDecode_parts (c k : Byte) (payload : List Byte) : fcDecode (c :: (payload ++ [k])) = .ok ⟨c, payload, k⟩ := by
  simp [fcDecode]

/-- A frame's parts are unique (R46). -/
theorem parts_inj {c c' k k' : Byte} {payload payload' : List Byte} :
    c :: (payload ++ [k]) = c' :: (payload' ++ [k']) ↔ c = c' ∧ payload = payload' ∧ k = k' := by
  constructor
  · intro h
    obtain ⟨hc, h⟩ := List.cons.inj h
    obtain ⟨hp, hk⟩ := List.append_inj' h rfl
    exact ⟨hc, hp, (List.cons.inj hk).1⟩
  · rintro ⟨rfl, rfl, rfl⟩
    rfl

/-- A list of at least two bytes is a first byte, a middle and a last byte. -/
theorem exists_parts {frame : List Byte} (h : 2 ≤ frame.length) :
    ∃ c payload k, frame = c :: (payload ++ [k]) := by
  rcases frame with _ | ⟨c, rest⟩
  · simp at h
  · have hne : rest ≠ [] := by rintro rfl; simp at h
    exact ⟨c, rest.dropLast, rest.getLast hne, by rw [List.dropLast_append_getLast hne]⟩

/-- What `fc_decode` can answer (R86). -/
theorem fcDecode_eq_ok {frame : List Byte} {p : Parts} :
    fcDecode frame = .ok p ↔ frame = p.counter :: (p.payload ++ [p.checksum]) := by
  constructor
  · intro h
    have hlen : ¬ frame.length < 2 := fun hs => by simp [fcDecode, hs] at h
    obtain ⟨c, payload, k, rfl⟩ := exists_parts (Nat.not_lt.mp hlen)
    rw [fcDecode_parts] at h
    cases h
    rfl
  · rintro rfl
    exact fcDecode_parts ..

/-- `fc_decode` fails exactly on fewer than two bytes (R86, R147). -/
theorem fcDecode_short {frame : List Byte} (h : frame.length < 2) : fcDecode frame = .error .frameTooShort :=
  if_pos h

/-- `fc_encode` on a payload that fits (R85). -/
theorem fcEncode_ok (v : Variant) (c : Byte) {payload : List Byte} (h : payload.length ≤ 6) :
    fcEncode v c payload = .ok (c :: payload ++ [checksum v (c :: payload)]) := by
  simp [fcEncode, Nat.not_lt.mpr h]

/-- The operand of `DEC` and `RXVAL` when its length is legal (R90, R123). -/
theorem frameOperand_ok (s : State) {len : Nat} (h2 : 2 ≤ len) (h8 : len ≤ 8) :
    frameOperand len s = .ok (dinBytes s len) := by
  simp [frameOperand, Nat.not_lt.mpr h2, Nat.not_lt.mpr h8]

/-- A legal operand of `DEC` and `RXVAL` splits into a frame's parts. -/
theorem exists_din_parts (s : State) {len : Nat} (h2 : 2 ≤ len) (h8 : len ≤ 8) :
    ∃ c payload k, dinBytes s len = c :: (payload ++ [k]) :=
  exists_parts (by rw [length_dinBytes]; omega)

/-- What `ENC.A` and `ENC.B` can do: fail on the length, or answer the frame; nothing else changes (R88, R89). -/
theorem encodeDin_eq_next {v : Variant} {len : Nat} {c : Byte} {s t : State} :
    encodeDin v len c s = .next t ↔
      (6 < len ∧ t = s.withRsp { status := .failure .payloadTooLarge }) ∨
      (len ≤ 6 ∧ t = s.withRsp { data := c :: dinBytes s len ++ [checksum v (c :: dinBytes s len)] }) := by
  unfold encodeDin
  split <;> rename_i h
  · simp [raise_eq_next, h, Nat.not_le.mpr h]
  · have h6 : len ≤ 6 := Nat.not_lt.mp h
    rw [fcEncode_ok v c (by rw [length_dinBytes]; omega)]
    simp [respond_eq_next, h6, Nat.not_lt.mpr h6]

/-- What `DEC` can do: fail on the length, or answer the parts; nothing else changes (R90). -/
theorem execDec_eq_next {len : Nat} {s t : State} :
    execDec len s = .next t ↔
      (8 < len ∧ t = s.withRsp { status := .failure .lengthOutOfRange }) ∨
      (len < 2 ∧ t = s.withRsp { status := .failure .frameTooShort }) ∨
      (2 ≤ len ∧ len ≤ 8 ∧ ∃ c payload k, dinBytes s len = c :: (payload ++ [k]) ∧
        t = s.withRsp { ctr := c, res := k, data := payload }) := by
  unfold execDec
  by_cases h8 : 8 < len
  · have h2 : ¬ len < 2 := by omega
    simp [frameOperand, raise_eq_next, h8, h2, Nat.not_le.mpr h8]
  · by_cases h2 : len < 2
    · simp [frameOperand, raise_eq_next, h8, h2, Nat.not_le.mpr h2]
    · obtain ⟨c, payload, k, hp⟩ := exists_din_parts s (Nat.not_lt.mp h2) (Nat.not_lt.mp h8)
      rw [frameOperand_ok s (Nat.not_lt.mp h2) (Nat.not_lt.mp h8), hp]
      simp only [fcDecode_parts, respond_eq_next]
      constructor
      · rintro rfl
        exact .inr (.inr ⟨by omega, by omega, c, payload, k, rfl, rfl⟩)
      · rintro (⟨h, -⟩ | ⟨h, -⟩ | ⟨-, -, c', payload', k', he, rfl⟩)
        · omega
        · omega
        · obtain ⟨rfl, rfl, rfl⟩ := parts_inj.mp he
          rfl

/-! ### Transmit side -/

/-- What `tx_next` can do (R100). -/
theorem txNext_cases (s : State) :
    (s.sentCount.toNat < 2 ∧ txNext s = (s.withTxCounter (seqNext s.txCounter)).withSentCount (s.sentCount + 1) ∧
      (s.sentCount + 1).toNat = s.sentCount.toNat + 1) ∨
    (2 ≤ s.sentCount.toNat ∧ txNext s = s) := by
  by_cases h : s.sentCount.toNat < 2
  · refine .inl ⟨h, by simp [txNext, h], ?_⟩
    rw [BitVec.toNat_add]
    exact Nat.mod_eq_of_lt (by simp only [Config.sentWidth, BitVec.reduceToNat]; omega)
  · exact .inr ⟨by omega, by simp [txNext, h]⟩

/-- What `TXNEXT` can do (R102). -/
theorem execTxnext_eq_next {s t : State} :
    execTxnext s = .next t ↔ t = (txNext s).withRsp { ctr := (txNext s).txCounter } := respond_eq_next

/-- What `TXAPPEND` can do (R104). -/
theorem execTxappend_eq_next {ch : Byte} {s t : State} :
    execTxappend ch s = .next t ↔
      (s.txBuf.length < 4 ∧ t = (s.withTxBuf (s.txBuf ++ [ch])).withRsp {}) ∨
      (4 ≤ s.txBuf.length ∧ t = s.withRsp {}) := by
  unfold execTxappend appendChar
  rw [respond_eq_next]
  split <;> rename_i h
  · simp [h, Nat.not_le.mpr h]
  · simp [h, Nat.not_lt.mp h]

/-- What `TXCOMMIT` can do; the last case, a buffer longer than any encode accepts, is reached by no run (R107, R108). -/
theorem execTxcommit_eq_next {s t : State} :
    execTxcommit s = .next t ↔
      (s.txBuf = [] ∧ t = s.withRsp {}) ∨
      (s.txBuf ≠ [] ∧ s.txBuf.length ≤ 6 ∧
        t = ((txNext s).withTxBuf []).withRsp
          { data := (txNext s).txCounter :: s.txBuf ++ [cs4A ((txNext s).txCounter :: s.txBuf)] }) ∨
      (6 < s.txBuf.length ∧ t = s.withRsp { status := .failure .payloadTooLarge }) := by
  unfold execTxcommit
  by_cases h0 : s.txBuf = []
  · simp [h0, respond_eq_next]
  · have hl : s.txBuf.length ≠ 0 := by simpa using h0
    rw [if_neg hl]
    by_cases h6 : s.txBuf.length ≤ 6
    · rw [fcEncode_ok .a _ h6]
      simp [respond_eq_next, checksum, h0, h6, Nat.not_lt.mpr h6]
    · simp [fcEncode, raise_eq_next, h0, h6, Nat.not_le.mp h6]

/-! ### Receive side -/

/-- What `RXVAL` can do: fail on the length with no outcome, or one of the three outcomes (R122, R123). -/
theorem execRxval_eq_next {len : Nat} {s t : State} :
    execRxval len s = .next t ↔
      (8 < len ∧ t = s.withRsp { status := .failure .lengthOutOfRange }) ∨
      (len < 2 ∧ t = s.withRsp { status := .failure .frameTooShort }) ∨
      (2 ≤ len ∧ len ≤ 8 ∧ ∃ c payload k, dinBytes s len = c :: (payload ++ [k]) ∧
        ((c ≠ s.expectedCounter ∧ t = (s.withInd .fault).withRsp { outcome := some .sequenceMismatch }) ∨
         (c = s.expectedCounter ∧ cs4B (c :: payload) ≠ k ∧
            t = (s.withInd .fault).withRsp { outcome := some .checksumMismatch }) ∨
         (c = s.expectedCounter ∧ cs4B (c :: payload) = k ∧
            t = ((acceptFrame c s).withInd (indicator .accepted (satIncr s.validCount))).withRsp
              { outcome := some .accepted }))) := by
  unfold execRxval
  by_cases h8 : 8 < len
  · have h2 : ¬ len < 2 := by omega
    simp [frameOperand, raise_eq_next, h8, h2, Nat.not_le.mpr h8]
  · by_cases h2 : len < 2
    · simp [frameOperand, raise_eq_next, h8, h2, Nat.not_le.mpr h2]
    · obtain ⟨c, payload, k, hp⟩ := exists_din_parts s (Nat.not_lt.mp h2) (Nat.not_lt.mp h8)
      have hiff : ∀ q : Byte → List Byte → Byte → Prop,
          (∃ c' payload' k', c :: (payload ++ [k]) = c' :: (payload' ++ [k']) ∧ q c' payload' k') ↔ q c payload k := by
        intro q
        constructor
        · rintro ⟨c', payload', k', he, hq⟩
          obtain ⟨rfl, rfl, rfl⟩ := parts_inj.mp he
          exact hq
        · exact fun hq => ⟨c, payload, k, rfl, hq⟩
      rw [frameOperand_ok s (Nat.not_lt.mp h2) (Nat.not_lt.mp h8), hp]
      simp only [fvValidate, fcDecode_parts, validateParts, hiff, h2, h8, false_and, false_or, Nat.not_lt.mp h2,
        Nat.not_lt.mp h8, true_and]
      by_cases hc : c = s.expectedCounter
      · by_cases hk : cs4B (c :: payload) = k
        · subst hc
          simp [hk, respond_eq_next, acceptFrame]
        · subst hc
          simp [hk, respond_eq_next, indicator]
      · simp [hc, respond_eq_next, indicator]

end Sys2Proof.Machine
end

