-- ==== Sys2Proof/Laws/Decode.lean ====
section
/-! SUPPORT. The three fields of a word and the word of three fields, and what `decode` can answer. -/

namespace Sys2Proof

/-- `OP` of a joined word. -/
@[simp] theorem opField_joinFields (op len : BitVec 4) (arg : Byte) : opField (joinFields op len arg) = op := by
  ext i h
  simp only [opField, joinFields, BitVec.getElem_extractLsb', BitVec.getLsbD_append]
  simp [show ¬ 12 + i < 8 by omega, show ¬ 12 + i - 8 < 4 by omega, show 12 + i - 8 - 4 = i by omega, h]

/-- `LEN` of a joined word. -/
@[simp] theorem lenField_joinFields (op len : BitVec 4) (arg : Byte) :
    lenField (joinFields op len arg) = len.toNat := by
  have h : (joinFields op len arg).extractLsb' 8 4 = len := by
    ext i h
    simp only [joinFields, BitVec.getElem_extractLsb', BitVec.getLsbD_append]
    simp [show ¬ 8 + i < 8 by omega, h]
  simp [lenField, h]

/-- `ARG` of a joined word. -/
@[simp] theorem argField_joinFields (op len : BitVec 4) (arg : Byte) : argField (joinFields op len arg) = arg := by
  ext i h
  simp only [argField, joinFields, BitVec.getElem_extractLsb', BitVec.getLsbD_append]
  simp [h]

/-- Every word is the join of its fields. -/
theorem joinFields_fields (cw : CommandWord) :
    joinFields (opField cw) (cw.extractLsb' 8 4) (argField cw) = cw := by
  apply BitVec.eq_of_getLsbD_eq
  intro i hi
  simp only [joinFields, opField, argField, BitVec.getLsbD_append, BitVec.getLsbD_extractLsb']
  by_cases h8 : i < 8
  · simp [h8]
  · by_cases h12 : i < 12
    · simp [h8, show i - 8 < 4 by omega, show 8 + (i - 8) = i by omega]
    · simp [h8, show ¬ i - 8 < 4 by omega, show i - 8 - 4 < 4 by omega, show 12 + (i - 8 - 4) = i by omega]

/-- The opcode map and the code column are each other's inverse (R56). -/
theorem opcodeOf_eq_some {b : BitVec 4} {op : Opcode} : opcodeOf b = some op ↔ b = op.code := by
  cases op <;> revert b <;> decide

/-- What `decode` can accept (R54). -/
theorem decode_eq_ok {cw : CommandWord} {i : Instr} :
    decode cw = .ok i ↔
      ∃ op : Opcode, opField cw = op.code ∧ op.format.zeroFieldsOk (lenField cw) (argField cw) = true ∧
        i = op.instr (lenField cw) (argField cw) := by
  unfold decode
  rcases h : opcodeOf (opField cw) with _ | op
  · simp only [reduceCtorEq, false_iff, not_exists, not_and]
    intro op hop
    rw [opcodeOf_eq_some.mpr hop] at h
    cases h
  · have hop := opcodeOf_eq_some.mp h
    have hu : ∀ op', opField cw = op'.code → op' = op := fun op' h' => by
      rw [opcodeOf_eq_some.mpr h'] at h
      exact Option.some.inj h
    constructor
    · intro hd
      by_cases hz : op.format.zeroFieldsOk (lenField cw) (argField cw) = true
      · simp only [hz, if_true, Except.ok.injEq] at hd
        exact ⟨op, hop, hz, hd.symm⟩
      · simp [hz] at hd
    · rintro ⟨op', h', hz, rfl⟩
      obtain rfl := hu op' h'
      simp [hz]

/-- A word either decodes or is rejected by name. -/
theorem decode_total (cw : CommandWord) : (∃ i, decode cw = .ok i) ∨ ∃ e, decode cw = .error e := by
  rcases decode cw with e | i
  · exact .inr ⟨e, rfl⟩
  · exact .inl ⟨i, rfl⟩

end Sys2Proof
end

