-- ==== Sys2Proof/Laws/Step.lean ====
section
/-! SUPPORT. What a step can do, said once; and one issued command as a function of the state. -/

namespace Sys2Proof.Machine

/-- Everything a step that answers a next state can be: a wait, a reset, a command, an illegal word. -/
theorem step_eq_next {s t : State} :
    step s = .next t ↔
      (s.host = [] ∧ t = s) ∨
      (∃ rest, s.host = .reset :: rest ∧ t = resetBlock (s.withHost rest)) ∨
      (∃ c rest i, s.host = .command c :: rest ∧ decode c.word = .ok i ∧ exec i (present c rest s) = .next t) ∨
      (∃ c rest e, s.host = .command c :: rest ∧ decode c.word = .error e ∧
        t = (present c rest s).withRsp { status := .failure .illegalCommand }) := by
  unfold step nextTask
  rcases hh : s.host with _ | ⟨c | _ | _, rest⟩
  · simp only [Host.Outcome.next.injEq, true_and, reduceCtorEq, false_and, exists_false, or_false]
    exact eq_comm
  · rcases hd : decode c.word with e | i
    · simp only [hd, raise_eq_next]
      constructor
      · rintro rfl
        exact .inr (.inr (.inr ⟨c, rest, e, rfl, hd, rfl⟩))
      · rintro (⟨h, -⟩ | ⟨_, h, -⟩ | ⟨_, _, _, h, hd', -⟩ | ⟨_, _, _, h, -, rfl⟩)
        · cases h
        · cases h
        · cases h
          exact nomatch hd.symm.trans hd'
        · cases h
          rfl
    · simp only [hd]
      constructor
      · intro h
        exact .inr (.inr (.inl ⟨c, rest, i, rfl, hd, h⟩))
      · rintro (⟨h, -⟩ | ⟨_, h, -⟩ | ⟨_, _, _, h, hd', he⟩ | ⟨_, _, _, h, hd', -⟩)
        · cases h
        · cases h
        · cases h
          obtain rfl := Except.ok.inj (hd.symm.trans hd')
          exact he
        · cases h
          exact nomatch hd.symm.trans hd'
  · simp only [Host.Outcome.next.injEq, reduceCtorEq, false_and, exists_false, or_false, false_or, List.cons.injEq,
      true_and, exists_eq_left']
    exact eq_comm
  · simp

/-- A step on an overlapped command stops (R174). -/
theorem step_overlap {s : State} {rest : List HostInput} (h : s.host = .overlap :: rest) :
    step s = .fault .interfaceHazard := by
  simp [step, nextTask, h]

/-- One issued command: its data on `DIN`, then its meaning, or `IllegalCommand` (R49, R149). -/
theorem issue_eq (c : Command) (s : State) :
    issue c s =
      match decode c.word with
      | .ok i => exec i (s.withDin c.data)
      | .error _ => .next ((s.withDin c.data).withRsp { status := .failure .illegalCommand }) := by
  simp only [issue, step, nextTask, State.withHost_host]
  rcases decode c.word with e | i <;> rfl

end Sys2Proof.Machine
end

