-- ==== Sys2Proof/Laws/Exec.lean ====
section
/-! SUPPORT. What `exec` can do over all nine commands, said once; the validator in terms of the bytes of `DIN`; command words
built from their numbers. -/

namespace Sys2Proof.Machine

/-- The parts of a legal frame operand as bytes of `DIN` (R30, R86). -/
theorem din_parts {s : State} {len : Nat} (h2 : 2 ≤ len) (h8 : len ≤ 8) {c k : Byte} {payload : List Byte}
    (h : dinBytes s len = c :: (payload ++ [k])) :
    c = s.din.toList.getD 0 0 ∧ payload = (s.din.toList.drop 1).take (len - 2) ∧ k = s.din.toList.getD (len - 1) 0 ∧
      c :: payload = s.din.toList.take (len - 1) := by
  have hl : payload.length + 2 = len := by
    have := congrArg List.length h
    rw [length_dinBytes] at this
    simp only [List.length_cons, List.length_append, List.length_nil] at this
    omega
  have hget : ∀ i < len, s.din.toList[i]? = (c :: (payload ++ [k]))[i]? := by
    intro i hi
    rw [← h]
    simp [dinBytes, hi]
  refine ⟨?_, ?_, ?_, ?_⟩
  · rw [List.getD_eq_getElem?_getD, hget 0 (by omega)]
    simp
  · have hp : payload = ((c :: (payload ++ [k])).drop 1).take (len - 2) := by
      simp [show len - 2 = payload.length by omega]
    conv_lhs => rw [hp, ← h]
    simp [dinBytes, List.drop_take, List.take_take]
    omega
  · rw [List.getD_eq_getElem?_getD, hget _ (by omega), show len - 1 = payload.length + 1 by omega]
    simp
  · have hp : c :: payload = (c :: (payload ++ [k])).take (len - 1) := by
      simp [show len - 1 = payload.length + 1 by omega]
    rw [hp, ← h, dinBytes, List.take_take]
    congr 1
    omega

/-- What `RXVAL` can do, in terms of the bytes of `DIN` (R122, R123). -/
theorem execRxval_eq_next_din {len : Nat} {s t : State} :
    execRxval len s = .next t ↔
      (8 < len ∧ t = s.withRsp { status := .failure .lengthOutOfRange }) ∨
      (len < 2 ∧ t = s.withRsp { status := .failure .frameTooShort }) ∨
      (2 ≤ len ∧ len ≤ 8 ∧
        ((s.din.toList.getD 0 0 ≠ s.expectedCounter ∧
            t = (s.withInd .fault).withRsp { outcome := some .sequenceMismatch }) ∨
         (s.din.toList.getD 0 0 = s.expectedCounter ∧
            cs4B (s.din.toList.take (len - 1)) ≠ s.din.toList.getD (len - 1) 0 ∧
            t = (s.withInd .fault).withRsp { outcome := some .checksumMismatch }) ∨
         (s.din.toList.getD 0 0 = s.expectedCounter ∧
            cs4B (s.din.toList.take (len - 1)) = s.din.toList.getD (len - 1) 0 ∧
            t = ((acceptFrame s.expectedCounter s).withInd (indicator .accepted (satIncr s.validCount))).withRsp
              { outcome := some .accepted }))) := by
  rw [execRxval_eq_next]
  constructor
  · rintro (h | h | ⟨h2, h8, c, payload, k, he, h⟩)
    · exact .inl h
    · exact .inr (.inl h)
    · obtain ⟨hc, -, hk, hb⟩ := din_parts h2 h8 he
      rw [← hc, ← hk, ← hb]
      refine .inr (.inr ⟨h2, h8, ?_⟩)
      rcases h with h | h | ⟨rfl, h⟩
      · exact .inl h
      · exact .inr (.inl h)
      · exact .inr (.inr ⟨rfl, h⟩)
  · rintro (h | h | ⟨h2, h8, h⟩)
    · exact .inl h
    · exact .inr (.inl h)
    · obtain ⟨c, payload, k, he⟩ := exists_din_parts s h2 h8
      obtain ⟨hc, -, hk, hb⟩ := din_parts h2 h8 he
      rw [← hc, ← hk, ← hb] at h
      refine .inr (.inr ⟨h2, h8, c, payload, k, he, ?_⟩)
      rcases h with h | h | ⟨rfl, h⟩
      · exact .inl h
      · exact .inr (.inl h)
      · exact .inr (.inr ⟨rfl, h⟩)

/-- The indicator of an accepted frame in terms of the count before it (R135). -/
theorem indicator_accepted (vc : BitVec Config.validWidth) :
    indicator .accepted (satIncr vc) = if vc.toNat + 1 ≤ 2 then .ok else .fault := by
  simp only [indicator, satIncr_toNat, indOkMax]
  split <;> split <;> first | rfl | omega

/-- The registers that `tx_next` leaves alone (R100). -/
theorem txNext_frame (s : State) :
    (txNext s).txBuf = s.txBuf ∧ (txNext s).expectedCounter = s.expectedCounter ∧
      (txNext s).validCount = s.validCount ∧ (txNext s).ind = s.ind ∧ (txNext s).din = s.din ∧
      (txNext s).rsp = s.rsp ∧ (txNext s).host = s.host := by
  rcases txNext_cases s with ⟨-, h, -⟩ | ⟨-, h⟩ <;> simp [h]

/-- Everything a command that answers a next state can have done: answer without touching a register; advance the
transmit side; append a character; or validate a frame. -/
theorem exec_cases {i : Instr} {s t : State} (h : exec i s = .next t) :
    (∃ r : Response, r.outcome = none ∧ (r.status = .ok ∨ ∃ f, r = { status := .failure f }) ∧ t = s.withRsp r) ∨
    (∃ (r : Response) (buf : List Byte), r.outcome = none ∧ r.status = .ok ∧
      (i = .txnext ∧ buf = s.txBuf ∨ i = .txcommit ∧ buf = [] ∧ s.txBuf ≠ []) ∧
      t = ((txNext s).withTxBuf buf).withRsp r) ∨
    (∃ ch, i = .txappend ch ∧ s.txBuf.length < 4 ∧ t = (s.withTxBuf (s.txBuf ++ [ch])).withRsp {}) ∨
    (∃ len, i = .rxval len ∧ 2 ≤ len ∧ len ≤ 8 ∧
      ((s.din.toList.getD 0 0 ≠ s.expectedCounter ∧
          t = (s.withInd .fault).withRsp { outcome := some .sequenceMismatch }) ∨
       (s.din.toList.getD 0 0 = s.expectedCounter ∧
          cs4B (s.din.toList.take (len - 1)) ≠ s.din.toList.getD (len - 1) 0 ∧
          t = (s.withInd .fault).withRsp { outcome := some .checksumMismatch }) ∨
       (s.din.toList.getD 0 0 = s.expectedCounter ∧
          cs4B (s.din.toList.take (len - 1)) = s.din.toList.getD (len - 1) 0 ∧
          t = ((acceptFrame s.expectedCounter s).withInd (indicator .accepted (satIncr s.validCount))).withRsp
            { outcome := some .accepted }))) := by
  cases i with
  | csumA len => rcases execCsumA_eq_next.mp h with ⟨-, rfl⟩ | ⟨-, rfl⟩ <;> exact .inl ⟨_, rfl, by simp, rfl⟩
  | csumB len => rcases execCsumB_eq_next.mp h with ⟨-, rfl⟩ | ⟨-, rfl⟩ <;> exact .inl ⟨_, rfl, by simp, rfl⟩
  | encA len c => rcases encodeDin_eq_next.mp h with ⟨-, rfl⟩ | ⟨-, rfl⟩ <;> exact .inl ⟨_, rfl, by simp, rfl⟩
  | encB len c => rcases encodeDin_eq_next.mp h with ⟨-, rfl⟩ | ⟨-, rfl⟩ <;> exact .inl ⟨_, rfl, by simp, rfl⟩
  | dec len =>
    rcases execDec_eq_next.mp h with ⟨-, rfl⟩ | ⟨-, rfl⟩ | ⟨-, -, _, _, _, -, rfl⟩ <;>
      exact .inl ⟨_, rfl, by simp, rfl⟩
  | txnext =>
    obtain rfl := execTxnext_eq_next.mp h
    refine .inr (.inl ⟨{ ctr := (txNext s).txCounter }, s.txBuf, rfl, rfl, .inl ⟨rfl, rfl⟩, ?_⟩)
    rw [← (txNext_frame s).1]
    rfl
  | txappend ch =>
    rcases execTxappend_eq_next.mp h with ⟨hl, rfl⟩ | ⟨-, rfl⟩
    · exact .inr (.inr (.inl ⟨ch, rfl, hl, rfl⟩))
    · exact .inl ⟨_, rfl, by simp, rfl⟩
  | txcommit =>
    rcases execTxcommit_eq_next.mp h with ⟨-, rfl⟩ | ⟨hne, -, rfl⟩ | ⟨-, rfl⟩
    · exact .inl ⟨_, rfl, by simp, rfl⟩
    · exact .inr (.inl ⟨_, [], rfl, rfl, .inr ⟨rfl, rfl, hne⟩, rfl⟩)
    · exact .inl ⟨_, rfl, by simp, rfl⟩
  | rxval len =>
    rcases execRxval_eq_next_din.mp h with ⟨-, rfl⟩ | ⟨-, rfl⟩ | ⟨h2, h8, h⟩
    · exact .inl ⟨_, rfl, by simp, rfl⟩
    · exact .inl ⟨_, rfl, by simp, rfl⟩
    · exact .inr (.inr (.inr ⟨len, rfl, h2, h8, h⟩))

/-- The word formula `(OP << 12) | (LEN << 8) | ARG` of R62 as a join of fields. -/
theorem word_eq_joinFields {op len : Nat} (ho : op ≤ 15) (hl : len ≤ 15) (arg : Byte) :
    BitVec.ofNat 16 (op * 4096) ||| (BitVec.ofNat 16 len <<< 8) ||| arg.setWidth 16 =
      joinFields (BitVec.ofNat 4 op) (BitVec.ofNat 4 len) arg := by
  have h : BitVec.ofNat 16 (op * 4096) ||| (BitVec.ofNat 16 len <<< 8) =
      (BitVec.ofNat 4 op ++ BitVec.ofNat 4 len).setWidth 16 <<< 8 := by
    interval_cases op <;> interval_cases len <;> decide
  rw [h]
  apply BitVec.eq_of_getLsbD_eq
  intro i hi
  simp only [joinFields, BitVec.getLsbD_append, BitVec.getLsbD_or, BitVec.getLsbD_shiftLeft, BitVec.getLsbD_setWidth]
  by_cases h8 : i < 8
  · simp [h8, hi]
  · have harg : arg.getLsbD i = false := BitVec.getLsbD_of_ge _ _ (by omega)
    simp [h8, hi, harg]
    omega

end Sys2Proof.Machine
end

