-- ==== Sys2Proof/Laws/PerInstr.lean ====
section
/-! SUPPORT. The facts stated for every command, one lemma per constructor. The family `MatchesRow`: a command's word lies in
its row of the opcode table, under the row's mask (30_encoding R55). -/

namespace Sys2Proof

/-- The three fields of a mask or pattern, for comparing words field by field. -/
theorem joinFields_and (op op' len len' : BitVec 4) (arg arg' : Byte) :
    joinFields op len arg &&& joinFields op' len' arg' = joinFields (op &&& op') (len &&& len') (arg &&& arg') := by
  apply BitVec.eq_of_getLsbD_eq
  intro i hi
  simp only [joinFields, BitVec.getLsbD_and, BitVec.getLsbD_append]
  split <;> [rfl; split <;> rfl]

end Sys2Proof

namespace Sys2Proof.Laws.MatchesRow

/-- The word of `i`, under its row's mask, is its row's pattern. -/
def Statement (i : Instr) : Prop := encode i &&& (tableRow i.opcode).mask = (tableRow i.opcode).pattern

theorem csumA (len : Nat) : Statement (.csumA len) := by
  have h : (0xF0FF#16 : CommandWord) = joinFields 0xF#4 0x0#4 0xFF#8 := by decide
  simp only [Statement, encode, tableRow, Instr.opcode, h, joinFields_and]
  simp [Instr.lenBits, Instr.argBits, Opcode.code, joinFields]

theorem csumB (len : Nat) : Statement (.csumB len) := by
  have h : (0xF0FF#16 : CommandWord) = joinFields 0xF#4 0x0#4 0xFF#8 := by decide
  simp only [Statement, encode, tableRow, Instr.opcode, h, joinFields_and]
  simp [Instr.lenBits, Instr.argBits, Opcode.code, joinFields]

theorem encA (len : Nat) (arg : Byte) : Statement (.encA len arg) := by
  have h : (0xF000#16 : CommandWord) = joinFields 0xF#4 0x0#4 0x00#8 := by decide
  simp only [Statement, encode, tableRow, Instr.opcode, h, joinFields_and]
  simp [Instr.lenBits, Instr.argBits, Opcode.code, joinFields]

theorem encB (len : Nat) (arg : Byte) : Statement (.encB len arg) := by
  have h : (0xF000#16 : CommandWord) = joinFields 0xF#4 0x0#4 0x00#8 := by decide
  simp only [Statement, encode, tableRow, Instr.opcode, h, joinFields_and]
  simp [Instr.lenBits, Instr.argBits, Opcode.code, joinFields]

theorem dec (len : Nat) : Statement (.dec len) := by
  have h : (0xF0FF#16 : CommandWord) = joinFields 0xF#4 0x0#4 0xFF#8 := by decide
  simp only [Statement, encode, tableRow, Instr.opcode, h, joinFields_and]
  simp [Instr.lenBits, Instr.argBits, Opcode.code, joinFields]

theorem txnext : Statement .txnext := by
  unfold Statement
  decide

theorem txappend (arg : Byte) : Statement (.txappend arg) := by
  have h : (0xFF00#16 : CommandWord) = joinFields 0xF#4 0xF#4 0x00#8 := by decide
  simp only [Statement, encode, tableRow, Instr.opcode, h, joinFields_and]
  simp [Instr.lenBits, Instr.argBits, Opcode.code, joinFields]

theorem txcommit : Statement .txcommit := by
  unfold Statement
  decide

theorem rxval (len : Nat) : Statement (.rxval len) := by
  have h : (0xF0FF#16 : CommandWord) = joinFields 0xF#4 0x0#4 0xFF#8 := by decide
  simp only [Statement, encode, tableRow, Instr.opcode, h, joinFields_and]
  simp [Instr.lenBits, Instr.argBits, Opcode.code, joinFields]

end Sys2Proof.Laws.MatchesRow
end

