-- ==== Sys2Proof/Tests/Slice0.lean ====
section
/-! SUPPORT. Tests of the model against spec/: the ill-formed terms, decoding by words written out from the encoding tables,
one step against the vectors of 95_test_vectors, and for every statement with hypotheses values that meet them. Every
expected value is the spec's. -/

open Sys2Proof Sys2Proof.Machine

namespace Sys2Proof.Tests

/-! ### Helpers -/

/-- The state an outcome goes on in. -/
def answer : Result → Option State
  | .next t => some t
  | .fault _ => none
  | .refused _ => none

theorem eq_next_of_answer {r : Result} {t : State} (h : answer r = some t) : r = .next t := by
  cases r <;> simp_all [answer]

/-- The response an outcome shows. -/
def reply (r : Result) : Option Response := (answer r).bind State.rsp

/-- A state of the transmit side, the receive side as after reset. -/
def tx (c : Byte) (n : BitVec 2) (buf : List Byte) : State :=
  { State.reset with txCounter := c, sentCount := n, txBuf := buf }

/-- A state of the receive side, the transmit side as after reset, with `bytes` on `DIN`. -/
def rx (e : Byte) (v : BitVec 32) (i : Option Indicator) (bytes : List Byte) : State :=
  { State.reset with expectedCounter := e, validCount := v, ind := i, din := padDin bytes }

/-- The reset state with `bytes` on `DIN`. -/
def withData (bytes : List Byte) : State := { State.reset with din := padDin bytes }

/-- The reset state with one host move to come. -/
def hosted (h : HostInput) : State := { State.reset with host := [h] }

/-! ### WellFormed: for each check a term it refuses, beside the largest it takes -/

theorem test_wf_csumA : ¬ (Instr.csumA 16).WellFormed ∧ (Instr.csumA 15).WellFormed := by decide
theorem test_wf_csumB : ¬ (Instr.csumB 16).WellFormed ∧ (Instr.csumB 15).WellFormed := by decide
theorem test_wf_encA : ¬ (Instr.encA 16 0xFF).WellFormed ∧ (Instr.encA 15 0xFF).WellFormed := by decide
theorem test_wf_encB : ¬ (Instr.encB 16 0xFF).WellFormed ∧ (Instr.encB 15 0xFF).WellFormed := by decide
theorem test_wf_dec : ¬ (Instr.dec 16).WellFormed ∧ (Instr.dec 15).WellFormed := by decide
theorem test_wf_rxval : ¬ (Instr.rxval 16).WellFormed ∧ (Instr.rxval 15).WellFormed := by decide

/-! ### Decoding: `OP`, `LEN`, `ARG` bit by bit (30_encoding, R50, R51, R56) -/

theorem test_decode_csumA : decode 0b0001_1111_00000000#16 = .ok (.csumA 15) := by decide
theorem test_decode_csumB : decode 0b0010_0111_00000000#16 = .ok (.csumB 7) := by decide
theorem test_decode_encA : decode 0b0011_0110_01111111#16 = .ok (.encA 6 0x7F) := by decide
theorem test_decode_encB : decode 0b0100_1001_10101010#16 = .ok (.encB 9 0xAA) := by decide
theorem test_decode_dec : decode 0b0101_0011_00000000#16 = .ok (.dec 3) := by decide
theorem test_decode_txnext : decode 0b0110_0000_00000000#16 = .ok .txnext := by decide
theorem test_decode_txappend : decode 0b0111_0000_11111111#16 = .ok (.txappend 0xFF) := by decide
theorem test_decode_txcommit : decode 0b1000_0000_00000000#16 = .ok .txcommit := by decide
theorem test_decode_rxval : decode 0b1001_1000_00000000#16 = .ok (.rxval 8) := by decide

/-- Vectors X1 to X4, X7, X10, X13 (95_test_vectors, 2.6). -/
theorem test_decode_illegal :
    decode 0x0000#16 = .error .reservedOpcode ∧ decode 0xFFFF#16 = .error .reservedOpcode ∧
    decode 0xA000#16 = .error .reservedOpcode ∧ decode 0x0200#16 = .error .reservedOpcode ∧
    decode 0x10FF#16 = .error .nonzeroField ∧ decode 0x7100#16 = .error .nonzeroField ∧
    decode 0x8100#16 = .error .nonzeroField := by decide

/-! ### One command at a time -/

/-- Vector K19: two folding steps. -/
theorem test_csumA_two_folds :
    reply (exec (.csumA 8) (withData [0xFF, 0xEF, 0xFF, 0xFF, 0xFF, 0xFF, 0xFF, 0xFF])) = some { res := 0x01#8 } := by
  decide

/-- `CSUM.A` of one byte with 0xFF on the rest of `DIN` (95_test_vectors, 2.1, after the failures). -/
theorem test_csumA_ignores_rest :
    reply (exec (.csumA 1) (withData [0x01, 0xFF, 0xFF, 0xFF, 0xFF, 0xFF, 0xFF, 0xFF])) = some { res := 0x0E#8 } := by
  decide

/-- Vector K15. -/
theorem test_csumB_raw_sum : reply (exec (.csumB 2) (withData [0xF1, 0xFF])) = some { res := 0x2E#8 } := by decide

/-- Vector KF2. -/
theorem test_csumB_too_long :
    reply (exec (.csumB 15) State.reset) = some { status := .failure .lengthOutOfRange } := by decide

/-- Vector E11. -/
theorem test_encA_frame :
    reply (exec (.encA 6 0x7F) (withData [1, 2, 3, 4, 5, 6])) =
      some { data := [0x7F#8, 1, 2, 3, 4, 5, 6, 0x02#8] } := by decide

/-- Vector EF3: not `LengthOutOfRange`. -/
theorem test_encA_too_large :
    reply (exec (.encA 15 0x00) State.reset) = some { status := .failure .payloadTooLarge } := by decide

/-- Vector E10. -/
theorem test_encB_frame :
    reply (exec (.encB 4 0x02) (withData [0x39, 0x39, 0x39, 0x39])) =
      some { data := [0x02#8, 0x39#8, 0x39#8, 0x39#8, 0x39#8, 0x32#8] } := by decide

/-- Vector DC4: `DEC` checks no checksum. -/
theorem test_dec_checks_nothing :
    reply (exec (.dec 4) (withData [0xAA, 0xBB, 0xCC, 0xDD])) =
      some { ctr := 0xAA#8, res := 0xDD#8, data := [0xBB#8, 0xCC#8] } := by decide

/-- Vector DC2: success with no payload. -/
theorem test_dec_shortest :
    reply (exec (.dec 2) (withData [0x00, 0x0F])) = some { ctr := 0x00#8, res := 0x0F#8, data := [] } := by decide

/-- Vector T4: the wrap from 254 to 0. -/
theorem test_txnext_wraps :
    answer (exec .txnext (tx 254 0 [])) = some { tx 0 1 [] with rsp := some { ctr := 0x00#8 } } := by decide

/-- Vector T5: frozen at 254. -/
theorem test_txnext_frozen : reply (exec .txnext (tx 254 2 [])) = some { ctr := 0xFE#8 } := by decide

/-- Vector T8. -/
theorem test_txappend_fills :
    answer (exec (.txappend 0x34) (tx 0 0 [0x31, 0x32, 0x33])) =
      some { tx 0 0 [0x31, 0x32, 0x33, 0x34] with rsp := some {} } := by decide

/-- Vector T9: dropped, with status OK. -/
theorem test_txappend_drops :
    answer (exec (.txappend 0x35) (tx 0 0 [0x31, 0x32, 0x33, 0x34])) =
      some { tx 0 0 [0x31, 0x32, 0x33, 0x34] with rsp := some {} } := by decide

/-- Vector T16: the counter advances before the frame is built. -/
theorem test_txcommit_full :
    answer (exec .txcommit (tx 0 0 [0x31, 0x32, 0x33, 0x34])) =
      some { tx 1 1 [] with rsp := some { data := [0x01, 0x31, 0x32, 0x33, 0x34, 0x07] } } := by decide

/-- Vector T15: the frozen counter is used again. -/
theorem test_txcommit_frozen :
    answer (exec .txcommit (tx 2 2 [0x33])) =
      some { tx 2 2 [] with rsp := some { data := [0x02, 0x33, 0x07] } } := by decide

/-- Vector RV7: the third accepted frame shows FAULT. -/
theorem test_rxval_third_accepted :
    answer (exec (.rxval 2) (rx 2 2 (some .ok) [0x02, 0x02])) =
      some { rx 3 3 (some .fault) [0x02, 0x02] with rsp := some { outcome := some .accepted } } := by decide

/-- Vector RV16: `valid_count` saturates, the expected counter moves on. -/
theorem test_rxval_saturates :
    answer (exec (.rxval 2) (rx 0 0xFFFFFFFF (some .fault) [0x00, 0x00])) =
      some { rx 1 0xFFFFFFFF (some .fault) [0x00, 0x00] with rsp := some { outcome := some .accepted } } := by decide

/-! ### The step and the ports -/

/-- Vector KF4: the must-be-zero field is checked before the length. -/
theorem test_step_illegal :
    reply (step (hosted (.command ⟨0x29FF#16, padDin []⟩))) = some { status := .failure .illegalCommand } := by decide

/-- The table word of `TXAPPEND 0x31` placed from reset runs as the first command (vector T7). -/
theorem test_fetch_word :
    answer (step (State.reset.withFetchWord 16 0x7031)) = some { tx 0 0 [0x31] with rsp := some {} } := by decide

/-- Byte 0 is the low byte of the data port (20_memory, R35); the worked frame of R107. -/
theorem test_data_port : Response.dataPort { data := [0x01, 0x31, 0x0A] } = 0x0A3101#64 := by decide

/-- `ENC.A 0x01, {31}` is the word 3101 with 31 on `DIN[0]` (vector E7). -/
theorem test_assemble :
    assemble (.encA 0x01 { bytes := [0x31] }) = some ⟨0x3101#16, padDin [0x31]⟩ ∧
    assemble (.csumA { bytes := [1, 2, 3, 4, 5, 6, 7, 8, 9] }) = none ∧
    assemble (.rxval { lenIs := some 16 }) = none := by decide

/-! ### Witnesses: for every statement with hypotheses, values that meet them, clause by clause -/

/-- A ninth byte makes the sum 263: `VariantsNeverAgree`. -/
def nineBytes : List Byte := [0xFF, 0xFF, 0xFF, 0xFF, 0xFF, 0xFF, 0xFF, 0xFF, 0xF8]

/-- All eight bytes of `DIN` are 0xFF. -/
def allOnes : List Byte := [0xFF, 0xFF, 0xFF, 0xFF, 0xFF, 0xFF, 0xFF, 0xFF]

/-- A transmitter's state that a run reaches: one advance, one character. -/
def midRun : State := tx 1 1 [0x32]

theorem test_witness_DecodeUndoesEncode :
    (Instr.csumA 0).WellFormed ∧ (Instr.encA 15 0xFF).WellFormed ∧ Instr.txnext.WellFormed := by decide

theorem test_witness_EncodeUndoesDecode : decode 0x1F00#16 = .ok (.csumA 15) := by decide

theorem test_witness_TableRowsSelectCommands :
    (∀ op, 0xA000#16 &&& (tableRow op).mask ≠ (tableRow op).pattern) ∧
    (∀ op, 0x8F00#16 &&& (tableRow op).mask ≠ (tableRow op).pattern) :=
  ⟨fun op => by cases op <;> decide, fun op => by cases op <;> decide⟩

theorem test_witness_StepRunsDecodedCommand :
    (hosted (.command ⟨0x6000#16, padDin []⟩)).host = .command ⟨0x6000#16, padDin []⟩ :: [] ∧
    decode 0x6000#16 = .ok .txnext := by decide

theorem test_witness_IllegalWordsFail :
    (hosted (.command ⟨0xA000#16, padDin []⟩)).host = .command ⟨0xA000#16, padDin []⟩ :: [] ∧
    IllegalWord 0x0000#16 ∧ IllegalWord 0xA000#16 ∧ IllegalWord 0xFFFF#16 ∧ IllegalWord 0x1001#16 ∧
    IllegalWord 0x7100#16 ∧ IllegalWord 0x6001#16 ∧ IllegalWord 0x6100#16 ∧ IllegalWord 0x8F00#16 ∧
    ¬ IllegalWord 0x1F00#16 ∧ ¬ IllegalWord 0x3FFF#16 ∧ ¬ IllegalWord 0x70FF#16 ∧ ¬ IllegalWord 0x9F00#16 :=
  ⟨by decide, by decide, by decide, by decide, by decide, by decide, by decide, by decide, by decide, by decide,
    by decide, by decide, by decide⟩

theorem test_witness_WaitsOrStopsWithoutCommand :
    State.reset.host = [] ∧ (hosted .overlap).host = .overlap :: [] := by decide

theorem test_witness_ResetMoveRestoresRegisters :
    ({ tx 2 2 [0x31] with host := [.reset], rsp := some {} } : State).host = .reset :: [] := by decide

theorem test_witness_NibbleSumAddsEveryBlock :
    [3, 1, 2, 0].Perm (List.range (2 * [0x12#8, 0x34#8].length)) ∧ [0x34#8, 0x12#8].Perm [0x12#8, 0x34#8] := by decide

theorem test_witness_FoldUntilFourBits : 15 ≤ 15 ∧ 16 ≤ 16 ∧ 255 ≤ 255 ∧ fold4 15 = 15 ∧ fold4 16 = 1 := by decide

theorem test_witness_VariantBIsRawSum : allOnes.length ≤ 8 := by decide

theorem test_witness_FoldClosedForm :
    1 ≤ 1 ∧ nibbleSum [0x00#8] = 0 ∧ 0 < nibbleSum [0x0F#8] ∧ nibbleSum [0x0F#8] % 15 = 0 ∧
    nibbleSum [0x1F#8] % 15 ≠ 0 := by decide

theorem test_witness_VariantsNeverAgree :
    allOnes.length ≤ 8 ∧ nibbleSum nineBytes = 263 ∧ cs4A nineBytes = cs4B nineBytes := by decide

theorem test_witness_ChecksumBlindSpots :
    [0x34#8, 0x12#8].Perm [0x12#8, 0x34#8] ∧
    List.Forall₂ (fun b b' : Byte => b' = b ∨ b' = b.extractLsb' 0 4 ++ b.extractLsb' 4 4)
      [0x0F#8, 0x12#8] [0xF0#8, 0x12#8] ∧
    0 < nibbleSum [0x0F#8] ∧ 0 < nibbleSum [0xFF#8] ∧ nibbleSum [0x0F#8] % 15 = nibbleSum [0xFF#8] % 15 := by decide

theorem test_witness_CsumAAnswersVariantA :
    8 ≤ 8 ∧ 8 < 9 ∧ 15 ≤ 15 ∧ (0x01#8 ≠ 0) ∧ (∀ b ∈ (withData []).din.toList.take 8, b = 0#8) ∧
    (∀ b ∈ (withData allOnes).din.toList, b = 0xFF#8) ∧
    (padDin [0x01, 0xFF]).toList.take 1 = (withData [0x01, 0x02]).din.toList.take 1 ∧
    (withData [0x12, 0x34]).din.toList.take 2 = [0x12#8, 0x34#8] := by decide

theorem test_witness_CsumBAnswersVariantB :
    8 ≤ 8 ∧ 8 < 9 ∧ 15 ≤ 15 ∧ (0x01#8 ≠ 0) ∧ (∀ b ∈ (withData allOnes).din.toList, b = 0xFF#8) ∧
    (withData [0x12, 0x34]).din.toList.take 2 = [0x12#8, 0x34#8] := by decide

theorem test_witness_EncodeBuildsFrame :
    6 < (allOnes.take 7).length ∧ (allOnes.take 6).length ≤ 6 ∧
    fcEncode .b 0x00#8 [0x12#8, 0x34#8] = .ok [0x00#8, 0x12#8, 0x34#8, 0x0A#8] := by decide

theorem test_witness_DecodeSplitsFrame : [0x42#8].length < 2 ∧ 2 ≤ [0x00#8, 0x0F#8].length := by decide

theorem test_witness_CodecRoundTrip :
    (allOnes.take 6).length ≤ 6 ∧ [0xAA#8, 0xBB#8, 0xCC#8, 0xDD#8].length ≤ 8 ∧
    fcDecode [0xAA#8, 0xBB#8, 0xCC#8, 0xDD#8] = .ok ⟨0xAA#8, [0xBB#8, 0xCC#8], 0xDD#8⟩ := by decide

theorem test_witness_EncABuildsVariantAFrame :
    6 ≤ 6 ∧ 6 < 7 ∧ 15 ≤ 15 ∧ (withData [0x31]).din.toList.take 1 = [0x31#8] ∧
    answer (exec (.encA 6 0xFF) (withData allOnes)) =
      some { withData allOnes with rsp := some { data := [0xFF, 0xFF, 0xFF, 0xFF, 0xFF, 0xFF, 0xFF, 0x00] } } := by
  decide

theorem test_witness_EncBBuildsVariantBFrame :
    6 ≤ 6 ∧ 6 < 7 ∧ 15 ≤ 15 ∧ (∀ b ∈ (withData allOnes).din.toList.take 6, b = 0xFF#8) ∧
    (allOnes.take 7).length ≤ 7 ∧ (withData [0x12, 0x34]).din.toList.take 2 = [0x12#8, 0x34#8] := by decide

theorem test_witness_DecSplitsDin :
    2 ≤ 2 ∧ 8 ≤ 8 ∧ 1 < 2 ∧ 8 < 9 ∧ 15 ≤ 15 ∧ (0xFF#8 ≠ 0) ∧
    (withData [0x01, 0x31, 0x0A]).din.toList.take 3 = [0x01#8, 0x31#8, 0x0A#8] ∧
    (answer (exec (.dec 8) (withData allOnes))).isSome := by decide

theorem test_witness_TxNextAdvancesTwice :
    (tx 254 1 []).sentCount.toNat < 2 ∧ (tx 254 1 []).txCounter.toNat = 254 ∧ (tx 255 1 []).txCounter.toNat = 255 ∧
    2 ≤ (tx 2 2 []).sentCount.toNat ∧ [0x31#8, 0x32#8, 0x33#8, 0x34#8].length ≤ 4 ∧
    answer (exec .txcommit { State.reset with txBuf := [0x31] }) =
      some { tx 1 1 [] with rsp := some { data := [0x01, 0x31, 0x0A] } } := by decide

theorem test_witness_TxnextAnswersNewCounter :
    (tx 1 1 []).sentCount.toNat < 2 ∧ 2 ≤ (tx 2 2 []).sentCount.toNat := by decide

theorem test_witness_TxCounterSequence : State.reset.txCounter = 0 ∧ State.reset.sentCount = 0 ∧ 2 ≤ 2 := by decide

theorem test_witness_TxappendKeepsOrDrops :
    (tx 0 0 [0x31, 0x32, 0x33]).txBuf.length < 4 ∧ 4 ≤ (tx 0 0 [0x31, 0x32, 0x33, 0x34]).txBuf.length ∧
    1 ≤ 1 ∧ 15 ≤ 15 := by decide

theorem test_witness_AppendsKeepFirstFour :
    State.reset.txBuf = [] ∧
    answer (exec (.txappend 0x00) State.reset) = some { tx 0 0 [0x00] with rsp := some {} } := by decide

theorem test_witness_TxcommitSendsBuffer :
    (tx 2 2 []).txBuf = [] ∧ midRun.txBuf ≠ [] ∧ midRun.txBuf.length ≤ 4 ∧ midRun.sentCount.toNat < 2 ∧
    (tx 2 2 [0x39, 0x39, 0x39, 0x39]).txBuf.length ≤ 4 ∧ 2 ≤ (tx 2 2 [0x39, 0x39, 0x39, 0x39]).sentCount.toNat := by
  decide

theorem test_witness_CommittedFramesAreBounded :
    midRun.RunInv ∧ (tx 0 0 [0x31]).RunInv ∧ (tx 0 0 [0x31]).sentCount = 0 ∧ midRun.sentCount ≠ 0 ∧ midRun.txBuf ≠ [] ∧
    answer (exec .txcommit midRun) =
      some { tx 2 2 [] with rsp := some { data := [0x02, 0x32, 0x08] } } := by decide

theorem test_witness_ValidatorPipeline :
    0x05#8 ≠ State.reset.expectedCounter ∧ 0x00#8 = State.reset.expectedCounter ∧
    cs4B ([0x00#8] ++ [0x12#8, 0x34#8]) ≠ 0x05#8 ∧ cs4B ([0x00#8] ++ [0x12#8, 0x34#8]) = 0x0A#8 := by decide

/-- Vectors RV11 and RV12, and RV2 for an outcome other than `Accepted`. -/
theorem test_witness_ExpectedCounterRule :
    answer (exec (.rxval 2) (rx 254 0 none [0xFE, 0x1D])) =
      some { rx 0 1 (some .ok) [0xFE, 0x1D] with rsp := some { outcome := some .accepted } } ∧
    answer (exec (.rxval 2) (rx 0 0 none [0x05, 0x05])) =
      some { rx 0 0 (some .fault) [0x05, 0x05] with rsp := some { outcome := some .sequenceMismatch } } ∧
    2 ≤ 2 ∧ 8 ≤ 8 ∧ (rx 254 0 none [0xFF, 0x1E]).expectedCounter.toNat ≤ 254 ∧
    (rx 254 0 none [0xFF, 0x1E]).din.toList.getD 0 0 = 255 := by decide

theorem test_witness_RxvalValidatesFrame :
    2 ≤ 2 ∧ 8 ≤ 8 ∧ 1 < 2 ∧ 8 < 9 ∧
    (rx 0 0 none [0x05, 0x05]).din.toList.getD 0 0 ≠ (rx 0 0 none [0x05, 0x05]).expectedCounter ∧
    (rx 1 0 none [0x01, 0x31, 0x0A]).din.toList.getD 0 0 = (rx 1 0 none [0x01, 0x31, 0x0A]).expectedCounter ∧
    cs4B ((rx 1 0 none [0x01, 0x31, 0x0A]).din.toList.take (3 - 1)) ≠
      (rx 1 0 none [0x01, 0x31, 0x0A]).din.toList.getD (3 - 1) 0 ∧
    (rx 2 2 none [0x02, 0xFF, 0xFF, 0xFF, 0xFF, 0xFF, 0xFF, 0xB6]).din.toList.getD 0 0 = 2 ∧
    cs4B ((rx 2 2 none [0x02, 0xFF, 0xFF, 0xFF, 0xFF, 0xFF, 0xFF, 0xB6]).din.toList.take (8 - 1)) =
      (rx 2 2 none [0x02, 0xFF, 0xFF, 0xFF, 0xFF, 0xFF, 0xFF, 0xB6]).din.toList.getD (8 - 1) 0 := by decide

/-- Vectors RV6 and RV7: the second and the third accepted frame. -/
theorem test_witness_IndicatorPolicy :
    (2#32).toNat ≤ 2 ∧ 2 < (3#32).toNat ∧
    answer (exec (.rxval 2) (rx 1 1 (some .ok) [0x01, 0x01])) =
      some { rx 2 2 (some .ok) [0x01, 0x01] with rsp := some { outcome := some .accepted } } ∧
    answer (exec (.rxval 2) (rx 2 2 (some .ok) [0x02, 0x02])) =
      some { rx 3 3 (some .fault) [0x02, 0x02] with rsp := some { outcome := some .accepted } } := by decide

/-- In the second clause the indicator moves: from OK to FAULT, on a command and no reset. -/
theorem test_witness_IndicatorLatchesFault :
    2 ≤ (rx 2 2 (some .ok) [0x02, 0x02]).validCount.toNat ∧
    (∀ rest, (hosted (.command ⟨0x9200#16, padDin [0x02, 0x02]⟩)).host ≠ .reset :: rest) ∧
    answer (step { rx 2 2 (some .ok) [] with host := [.command ⟨0x9200#16, padDin [0x02, 0x02]⟩] }) =
      some { rx 3 3 (some .fault) [0x02, 0x02] with rsp := some { outcome := some .accepted } } :=
  ⟨by decide, fun _ h => by simp [hosted] at h, by decide⟩

theorem test_witness_EncodeRefusesLargePayload :
    7 ≤ 7 ∧ 15 ≤ 15 ∧ (tx 0 0 [0x31, 0x32, 0x33, 0x34]).txBuf.length ≤ 4 := by decide

/-- A frame of one byte; vectors RV2 and RV5, wrong in the sequence alone and in both; vector RV3. -/
theorem test_witness_SequenceReportedBeforeChecksum :
    fcDecode [0x42#8] = .error .frameTooShort ∧ 1 < 2 ∧ 2 ≤ 2 ∧ 8 ≤ 8 ∧
    cs4B ((withData [0x05, 0x05]).din.toList.take (2 - 1)) = (withData [0x05, 0x05]).din.toList.getD (2 - 1) 0 ∧
    (withData [0x05, 0x05]).din.toList.getD 0 0 ≠ (withData [0x05, 0x05]).expectedCounter ∧
    cs4B ((withData [0x05, 0x00]).din.toList.take (2 - 1)) ≠ (withData [0x05, 0x00]).din.toList.getD (2 - 1) 0 ∧
    (withData [0x05, 0x00]).din.toList.getD 0 0 ≠ (withData [0x05, 0x00]).expectedCounter ∧
    cs4B ((withData [0x00, 0x12, 0x34, 0x05]).din.toList.take (4 - 1)) ≠
      (withData [0x00, 0x12, 0x34, 0x05]).din.toList.getD (4 - 1) 0 ∧
    (withData [0x00, 0x12, 0x34, 0x05]).din.toList.getD 0 0 = (withData [0x00, 0x12, 0x34, 0x05]).expectedCounter := by decide

theorem test_witness_BufferOverflowIsSilent :
    (tx 0 0 [0x31, 0x32, 0x33, 0x34]).txBuf.length = 4 ∧
    (answer (exec (.txappend 0x35) (tx 0 0 [0x31, 0x32, 0x33, 0x34]))).isSome := by decide

/-- Vectors RV3 and RV5. -/
theorem test_witness_OutcomesAreNotFailures :
    answer (exec (.rxval 4) (withData [0x00, 0x12, 0x34, 0x05])) =
      some { rx 0 0 (some .fault) [0x00, 0x12, 0x34, 0x05] with rsp := some { outcome := some .checksumMismatch } } ∧
    answer (exec (.rxval 2) (withData [0x05, 0x00])) =
      some { rx 0 0 (some .fault) [0x05, 0x00] with rsp := some { outcome := some .sequenceMismatch } } := by decide

/-- Vector RVF2, and an issued illegal word. -/
theorem test_witness_FailureChangesNoRegister :
    answer (exec (.rxval 1) (rx 1 1 (some .ok) [0x01])) =
      some { rx 1 1 (some .ok) [0x01] with rsp := some { status := .failure .frameTooShort } } ∧
    answer (issue ⟨0x8001#16, padDin []⟩ midRun) =
      some { midRun with rsp := some { status := .failure .illegalCommand } } := by decide

theorem test_witness_StatelessCommandsFrame :
    (answer (exec (.csumA 8) midRun)).isSome ∧ (answer (exec (.csumB 9) midRun)).isSome ∧
    (answer (exec (.encA 6 0xFF) midRun)).isSome ∧ (answer (exec (.encB 7 0x00) midRun)).isSome ∧
    (answer (exec (.dec 2) midRun)).isSome := by decide

theorem test_witness_TransmitCommandsFrame :
    (answer (exec .txnext midRun)).isSome ∧ (answer (exec (.txappend 0x00) midRun)).isSome ∧
    (answer (exec .txcommit midRun)).isSome ∧ (answer (exec .txcommit (tx 1 1 []))).isSome ∧ (tx 1 1 []).txBuf = [] := by
  decide

/-- An outcome other than `Accepted` (vector RV13). -/
theorem test_witness_RxvalFrame :
    answer (exec (.rxval 2) (rx 1 1 (some .ok) [0x00, 0x00])) =
      some { rx 1 1 (some .fault) [0x00, 0x00] with rsp := some { outcome := some .sequenceMismatch } } := by decide

theorem test_witness_CommandsForgetThePast :
    midRun.SameRegisters { midRun with rsp := some { ctr := 7 }, host := [.reset] } ∧
    midRun.din = ({ midRun with rsp := some { ctr := 7 }, host := [.reset] } : State).din ∧
    (answer (exec .txcommit midRun)).isSome := by decide

theorem test_witness_DinBeyondOperandIgnored :
    (padDin [0x01, 0xFF]).toList.take (dinUse (.csumA 1)) = (withData [0x01, 0x02]).din.toList.take (dinUse (.csumA 1)) ∧
    (answer (exec (.csumA 1) (withData [0x01, 0x02]))).isSome := by decide

/-- A frozen transmit counter, an expected counter that moves, and both counters at their wrap from 254 to 0. -/
theorem test_witness_CountsNeverFallWithoutReset :
    (∀ rest, (hosted (.command ⟨0x6000#16, padDin []⟩)).host ≠ .reset :: rest) ∧
    answer (step { tx 2 2 [] with host := [.command ⟨0x6000#16, padDin []⟩] }) =
      some { tx 2 2 [] with rsp := some { ctr := 0x02#8 } } ∧
    answer (step (hosted (.command ⟨0x9200#16, padDin [0x00, 0x00]⟩))) =
      some { rx 1 1 (some .ok) [0x00, 0x00] with rsp := some { outcome := some .accepted } } ∧
    answer (step { rx 254 0 none [] with host := [.command ⟨0x9200#16, padDin [0xFE, 0x1D]⟩] }) =
      some { rx 0 1 (some .ok) [0xFE, 0x1D] with rsp := some { outcome := some .accepted } } ∧
    answer (step { tx 254 1 [] with host := [.command ⟨0x6000#16, padDin []⟩] }) =
      some { tx 0 2 [] with rsp := some { ctr := 0x00#8 } } :=
  ⟨fun _ h => by simp [hosted] at h, by decide, by decide, by decide, by decide⟩

theorem test_witness_StepKeepsRegistersInRange :
    ({ tx 254 2 [0x31, 0x32, 0x33, 0x34] with host := [.command ⟨0x8000#16, padDin []⟩] } : State).InRange ∧
    (answer (step { tx 254 2 [0x31, 0x32, 0x33, 0x34] with host := [.command ⟨0x8000#16, padDin []⟩] })).isSome := by
  decide

theorem test_witness_StepKeepsRunInvariant :
    ({ rx 254 254 (some .fault) [] with host := [.command ⟨0x9200#16, padDin [0xFE, 0x1D]⟩] } : State).RunInv ∧
    (answer (step { rx 254 254 (some .fault) [] with host := [.command ⟨0x9200#16, padDin [0xFE, 0x1D]⟩] })).isSome := by
  decide

/-- Vectors E7, RV9 and RV2: the frame of `ENC.A 1` at a receiver that expects 0, and at one that expects 1. -/
theorem test_witness_TransmitterFrameNeverAccepted :
    answer (exec (.encA 1 0x01) (withData [0x31])) =
      some { withData [0x31] with rsp := some { data := [0x01, 0x31, 0x0A] } } ∧
    (rx 0 0 none [0x01, 0x31, 0x0A]).din.toList.take 3 = [0x01#8, 0x31#8, 0x0A#8] ∧
    some 0x01#8 ≠ some (rx 0 0 none [0x01, 0x31, 0x0A]).expectedCounter ∧
    some 0x01#8 = some (rx 1 0 none [0x01, 0x31, 0x0A]).expectedCounter ∧
    (answer (exec .txcommit midRun)).isSome := by decide

theorem test_witness_VariantBFrameAccepted :
    6 ≤ 6 ∧
    answer (exec (.encB 2 0x00) (withData [0x12, 0x34])) =
      some { withData [0x12, 0x34] with rsp := some { data := [0x00, 0x12, 0x34, 0x0A] } } ∧
    (rx 0 0 none [0x00, 0x12, 0x34, 0x0A]).din.toList.take (2 + 2) = [0x00#8, 0x12#8, 0x34#8, 0x0A#8] := by decide

/-- The frame of vector T13 on the bus; its delivery shows FAULT. -/
theorem test_witness_LinkMoveKeepsInvariant :
    (⟨⟨tx 1 1 [], State.reset⟩, [[0x01, 0x31, 0x0A]]⟩ : Link).Inv ∧
    ((⟨⟨tx 1 1 [], State.reset⟩, [[0x01, 0x31, 0x0A]]⟩ : Link).move (.deliver 0)).nodes.receiver.ind = some .fault := by
  decide

/-- Each node of the system can step. -/
theorem test_witness_NodesShareNoState :
    System.stepNode ⟨State.reset, State.reset⟩ .transmitter = .next ⟨State.reset, State.reset⟩ ∧
    System.stepNode ⟨State.reset, hosted .reset⟩ .receiver = .next ⟨State.reset, State.reset⟩ :=
  ⟨rfl, rfl⟩

theorem test_witness_PortCodes : (tx 0 0 [0x31, 0x32, 0x33, 0x34]).txBuf.length ≤ 4 := by decide

theorem test_witness_BuffersOnPorts : ({ data := allOnes } : Response).data.length ≤ 8 ∧ 7 < 8 := by decide

theorem test_witness_AssemblerLines :
    assemble (.rxval { lenIs := some 15, bytes := allOnes }) = some ⟨0x9F00#16, padDin allOnes⟩ ∧
    (AsmLine.rxval { lenIs := some 15, bytes := allOnes }).bytes.length ≤ 8 ∧
    (AsmLine.rxval { lenIs := some 15, bytes := allOnes }).instr.WellFormed := by decide

end Sys2Proof.Tests
end

/-! ## Proofs: the Checksum-4 engine and `CSUM.A`, `CSUM.B` (40_checksum) -/

namespace Sys2Proof.Machine

/-! ### Nibbles and blocks -/

/-- The low nibble as the bit field `b[3:0]` (R5). -/
theorem toNat_extractLsb'_low (b : Byte) : (b.extractLsb' 0 4).toNat = lowNibble b := by
  rw [lowNibble_eq, BitVec.extractLsb'_toNat, Nat.shiftRight_zero]

/-- The high nibble as the bit field `b[7:4]` (R5). -/
theorem toNat_extractLsb'_high (b : Byte) : (b.extractLsb' 4 4).toNat = highNibble b := by
  rw [highNibble_eq, BitVec.extractLsb'_toNat, Nat.shiftRight_eq_div_pow]
  omega

/-- The two blocks of one byte add up to at most 30. -/
theorem lowNibble_add_highNibble_le (b : Byte) : lowNibble b + highNibble b ≤ 30 := by
  rw [lowNibble_eq, highNibble_eq]
  omega

/-- Block 0 is the low nibble of the first byte (R70). -/
@[simp] theorem block_cons_zero (b : Byte) (bs : List Byte) : block (b :: bs) 0 = lowNibble b := rfl

/-- Block 1 is the high nibble of the first byte (R70). -/
@[simp] theorem block_cons_one (b : Byte) (bs : List Byte) : block (b :: bs) 1 = highNibble b := rfl

/-- From block 2 on the blocks are those of the other bytes (R70). -/
@[simp] theorem block_cons_add_two (b : Byte) (bs : List Byte) (i : Nat) : block (b :: bs) (i + 2) = block bs i := by
  simp [block]

/-! ### The nibble sum -/

@[simp] theorem nibbleSum_nil : nibbleSum [] = 0 := rfl

@[simp] theorem nibbleSum_cons (b : Byte) (bs : List Byte) :
    nibbleSum (b :: bs) = lowNibble b + highNibble b + nibbleSum bs := rfl

/-- The nibble sum as a sum over the bytes. -/
theorem nibbleSum_eq_sum_bytes (data : List Byte) :
    nibbleSum data = (data.map fun b => lowNibble b + highNibble b).sum := by
  induction data with
  | nil => rfl
  | cons b bs ih => simp [ih]

/-- The nibble sum as a sum over the block numbers in ascending order (R71). -/
theorem nibbleSum_eq_sum_blocks (data : List Byte) :
    nibbleSum data = ((List.range (2 * data.length)).map (block data)).sum := by
  induction data with
  | nil => rfl
  | cons b bs ih =>
    have hrange : List.range (2 * (b :: bs).length) = 0 :: 1 :: (List.range (2 * bs.length)).map (· + 2) := by
      rw [List.length_cons, Nat.mul_succ, List.range_succ_eq_map, List.range_succ_eq_map, List.map_cons, List.map_map]
      rfl
    have hrest : block (b :: bs) ∘ (· + 2) = block bs := funext fun i => block_cons_add_two b bs i
    rw [hrange, List.map_cons, List.map_cons, List.map_map, hrest, List.sum_cons, List.sum_cons, ← ih]
    simp [Nat.add_assoc]

/-- The order of the bytes does not matter. -/
theorem nibbleSum_perm {data data' : List Byte} (h : data'.Perm data) : nibbleSum data' = nibbleSum data := by
  rw [nibbleSum_eq_sum_bytes, nibbleSum_eq_sum_bytes]
  exact (h.map _).sum_nat

/-- The bound of R71. -/
theorem nibbleSum_le (data : List Byte) : nibbleSum data ≤ 30 * data.length := by
  induction data with
  | nil => simp
  | cons b bs ih =>
    have := lowNibble_add_highNibble_le b
    rw [nibbleSum_cons, List.length_cons]
    omega

/-- The nibble sum of a sequence of equal bytes. -/
theorem nibbleSum_of_forall_eq {data : List Byte} {b : Byte} (h : ∀ x ∈ data, x = b) :
    nibbleSum data = data.length * (lowNibble b + highNibble b) := by
  rw [List.eq_replicate_of_mem h, nibbleSum_eq_sum_bytes]
  simp

/-- Settles O11: the sum over the blocks in ascending order is invariant under permutation of the block numbers. -/
theorem nibbleSumAddsEveryBlock : Obligations.NibbleSumAddsEveryBlock := by
  intro data
  refine ⟨?_, ?_, fun _ => nibbleSum_perm, nibbleSum_le data, nibbleSum_nil⟩
  · intro order horder
    rw [nibbleSum_eq_sum_blocks]
    exact (horder.map _).sum_nat.symm
  · simp only [toNat_extractLsb'_low, toNat_extractLsb'_high]
    exact nibbleSum_eq_sum_bytes data

/-! ### The carry fold -/

/-- A sum that fits in 4 bits is not changed (R73). -/
theorem fold4_of_le {s : Nat} (h : s ≤ 15) : fold4 s = s := by
  rw [fold4_eq, if_pos h]

/-- A sum that does not fit takes a folding step first (R73). -/
theorem fold4_of_ge {s : Nat} (h : 16 ≤ s) : fold4 s = fold4 (foldStep s) := by
  rw [fold4_eq, if_neg (by omega)]

/-- Induction along the fold: what relates a sum that fits to itself, and is carried back over a folding step, relates
every sum to its fold. -/
theorem fold4_induction {P : Nat → Nat → Prop} (fits : ∀ s ≤ 15, P s s)
    (steps : ∀ s r, 16 ≤ s → P (foldStep s) r → P s r) (s : Nat) : P s (fold4 s) := by
  induction s using Nat.strongRecOn with
  | _ s ih =>
    by_cases h : s ≤ 15
    · rw [fold4_of_le h]
      exact fits s h
    · have h16 : 16 ≤ s := by omega
      rw [fold4_of_ge h16]
      exact steps s _ h16 (ih _ (foldStep_lt h16).1)

/-- The fold fits in 4 bits. -/
theorem fold4_le (s : Nat) : fold4 s ≤ 15 :=
  fold4_induction (P := fun _ r => r ≤ 15) (fun _ h => h) (fun _ _ _ h => h) s

/-- The fold is 0 only for 0: a folding step never leaves 0. -/
theorem fold4_eq_zero_iff (s : Nat) : fold4 s = 0 ↔ s = 0 := by
  refine fold4_induction (P := fun s r => r = 0 ↔ s = 0) (fun _ _ => Iff.rfl) (fun s r h16 ih => ?_) s
  have hpos := (foldStep_lt h16).2
  rw [ih]
  omega

/-- Up to 255 the fold takes at most two steps. -/
theorem fold4_of_le_255 {s : Nat} (h : s ≤ 255) :
    fold4 s = s ∨ fold4 s = foldStep s ∨ fold4 s = foldStep (foldStep s) := by
  by_cases h0 : s ≤ 15
  · exact .inl (fold4_of_le h0)
  · rw [fold4_of_ge (by omega)]
    by_cases h1 : foldStep s ≤ 15
    · exact .inr (.inl (fold4_of_le h1))
    · have h2 : foldStep (foldStep s) ≤ 15 := by
        simp only [foldStep_eq] at h1 ⊢
        omega
      rw [fold4_of_ge (by omega)]
      exact .inr (.inr (fold4_of_le h2))

/-- Settles O12, by induction along the fold. -/
theorem foldUntilFourBits : Obligations.FoldUntilFourBits :=
  ⟨fun s => ⟨fold4_of_le, fun h => ⟨fold4_of_ge h, (foldStep_lt h).1⟩, fold4_le s, fold4_eq_zero_iff s, fold4_of_le_255⟩,
    rfl, rfl, by decide⟩

/-! ### The two variants -/

/-- Complementing a 4-bit number in a byte and masking is complementing it in 4 bits. -/
theorem not_and_nibbleMask {n : Nat} (h : n ≤ 15) :
    ~~~(BitVec.ofNat 8 n) &&& BitVec.ofNat 8 nibbleMask = (~~~(BitVec.ofNat 4 n)).setWidth 8 := by
  revert n
  decide

/-- Variant A as the 4-bit complement (R74). -/
theorem cs4A_eq_setWidth (data : List Byte) :
    cs4A data = (~~~(BitVec.ofNat 4 (fold4 (nibbleSum data)))).setWidth 8 :=
  not_and_nibbleMask (fold4_le _)

/-- Variant A as a number. -/
theorem cs4A_toNat (data : List Byte) : (cs4A data).toNat = 15 - fold4 (nibbleSum data) := by
  have h := fold4_le (nibbleSum data)
  rw [cs4A_eq_setWidth, BitVec.toNat_setWidth, BitVec.toNat_not, BitVec.toNat_ofNat]
  omega

/-- Settles O13: the fold fits in 4 bits, where complement and mask commute. -/
theorem variantAComplementsFold : Obligations.VariantAComplementsFold := by
  intro data
  refine ⟨cs4A_eq_setWidth data, cs4A_toNat data, BitVec.eq_of_toNat_eq ?_⟩
  rw [toNat_extractLsb'_high, highNibble_eq, cs4A_toNat]
  exact Nat.div_eq_of_lt (by omega)

/-- Variant B as a number (R75). -/
theorem cs4B_toNat (data : List Byte) : (cs4B data).toNat = nibbleSum data % 256 := by
  rw [cs4B, show (0xFF : Nat) = 2 ^ 8 - 1 from rfl, Nat.and_two_pow_sub_one_eq_mod, BitVec.toNat_ofNat]
  omega

/-- At most 8 bytes have a nibble sum of at most 240. -/
theorem nibbleSum_le_240 {data : List Byte} (h : data.length ≤ 8) : nibbleSum data ≤ 240 :=
  (nibbleSum_le data).trans (Nat.mul_le_mul_left 30 h)

/-- On at most 8 bytes the mask of Variant B removes nothing (R75). -/
theorem cs4B_toNat_of_length_le {data : List Byte} (h : data.length ≤ 8) : (cs4B data).toNat = nibbleSum data := by
  have := nibbleSum_le_240 h
  rw [cs4B_toNat]
  omega

/-- Settles O14, from the bound of R71. -/
theorem variantBIsRawSum : Obligations.VariantBIsRawSum :=
  fun _ => ⟨rfl, fun h => ⟨nibbleSum_le_240 h, cs4B_toNat_of_length_le h⟩⟩

/-! ### Command words by their numbers -/

/-- The word formula of R62 with a command's own `OP` decodes to that command when its must-be-zero fields are zero. -/
theorem decode_word_ok {op : Opcode} {len : Nat} (hl : len ≤ 15) {arg : Byte}
    (hz : op.format.zeroFieldsOk len arg = true) :
    decode (BitVec.ofNat 16 (op.code.toNat * 4096) ||| (BitVec.ofNat 16 len <<< 8) ||| arg.setWidth 16) =
      .ok (op.instr len arg) := by
  have hlen : len % 16 = len := Nat.mod_eq_of_lt (by omega)
  rw [word_eq_joinFields (by omega) hl, decode_eq_ok]
  exact ⟨op, by simp, by simpa [hlen] using hz, by simp [hlen]⟩

/-- The same word is refused when a must-be-zero field is not zero (R58). -/
theorem decode_word_error {op : Opcode} {len : Nat} (hl : len ≤ 15) {arg : Byte}
    (hz : op.format.zeroFieldsOk len arg = false) :
    decode (BitVec.ofNat 16 (op.code.toNat * 4096) ||| (BitVec.ofNat 16 len <<< 8) ||| arg.setWidth 16) =
      .error .nonzeroField := by
  have hlen : len % 16 = len := Nat.mod_eq_of_lt (by omega)
  rw [word_eq_joinFields (by omega) hl, decode]
  simp [opcodeOf_eq_some.mpr rfl, hlen, hz]

/-- An issued word that does not decode fails as `IllegalCommand` and changes no register (R149). -/
theorem issue_of_decode_error {c : Command} {e : DecodeError} (h : decode c.word = .error e) (s : State) :
    issue c s = .next { s with din := c.data, rsp := some { status := .failure .illegalCommand } } := by
  rw [issue_eq, h]
  rfl

/-- A word of format D with a zero `ARG` decodes (R51). -/
theorem decode_formatD_word {op : Opcode} (hop : op.format = .d) {len : Nat} (hl : len ≤ 15) :
    decode (BitVec.ofNat 16 (op.code.toNat * 4096) ||| (BitVec.ofNat 16 len <<< 8)) = .ok (op.instr len 0) := by
  have h := decode_word_ok (op := op) hl (arg := 0) (by simp [hop, Format.zeroFieldsOk])
  simpa using h

/-- A word of format D with a non-zero `ARG` is an illegal command (R51, R58). -/
theorem issue_formatD_word {op : Opcode} (hop : op.format = .d) {len : Nat} (hl : len ≤ 15) {arg : Byte}
    (harg : arg ≠ 0) (d : Vector Byte 8) (s : State) :
    issue ⟨BitVec.ofNat 16 (op.code.toNat * 4096) ||| (BitVec.ofNat 16 len <<< 8) ||| arg.setWidth 16, d⟩ s =
      .next { s with din := d, rsp := some { status := .failure .illegalCommand } } := by
  have hdec := decode_word_error (op := op) hl (arg := arg) (by simpa [hop, Format.zeroFieldsOk] using harg)
  exact issue_of_decode_error (c := ⟨_, d⟩) hdec s

/-! ### `CSUM.A` and `CSUM.B` -/

/-- `CSUM.A` of a legal length answers the checksum `r` of the operand (R77). -/
theorem exec_csumA_of_le {s : State} {len : Nat} (h : len ≤ 8) {r : Byte} (hr : cs4A (s.din.toList.take len) = r) :
    exec (.csumA len) s = .next { s with rsp := some { res := r } } :=
  execCsumA_eq_next.mpr (.inr ⟨h, by rw [← hr]; rfl⟩)

/-- `CSUM.B` of a legal length answers the checksum `r` of the operand (R78). -/
theorem exec_csumB_of_le {s : State} {len : Nat} (h : len ≤ 8) {r : Byte} (hr : cs4B (s.din.toList.take len) = r) :
    exec (.csumB len) s = .next { s with rsp := some { res := r } } :=
  execCsumB_eq_next.mpr (.inr ⟨h, by rw [← hr]; rfl⟩)

/-- An operand in `DIN` has at most 8 bytes. -/
theorem length_take_din_le (s : State) (len : Nat) : (s.din.toList.take len).length ≤ 8 :=
  (List.length_take_le' len _).trans_eq (length_din s.din)

/-- The operand of length 8 of a `DIN` whose bytes are all `b`. -/
theorem take_eight_din {s : State} {b : Byte} (h : ∀ x ∈ s.din.toList, x = b) :
    s.din.toList.take 8 = List.replicate 8 b := by
  rw [List.take_of_length_le (length_din s.din).le, List.eq_replicate_of_mem h, length_din]

/-- Variant A of zero bytes is 0x0F (R77). -/
theorem cs4A_of_forall_zero {data : List Byte} (h : ∀ b ∈ data, b = 0#8) : cs4A data = 0x0F#8 := by
  have hsum : nibbleSum data = 0 := nibbleSum_of_forall_eq h
  rw [cs4A, hsum]
  decide

/-- Settles O18: each clause is the completion lemma of `CSUM.A` at the checksum of its operand, or a fact about the words
of format D. -/
theorem csumAAnswersVariantA : Obligations.CsumAAnswersVariantA := by
  intro s
  refine ⟨?result, ?tooLong, ?decodes, ?illegal, ?empty, ?zeros, ?ones, ?rest, ?worked⟩
  case result => exact fun len h => exec_csumA_of_le h rfl
  case tooLong => exact fun len h => execCsumA_eq_next.mpr (.inl ⟨h, rfl⟩)
  case decodes => exact fun len h => decode_formatD_word (op := .csumA) rfl h
  case illegal => exact fun len h arg d harg => issue_formatD_word (op := .csumA) rfl h harg d s
  case empty => exact exec_csumA_of_le (Nat.zero_le 8) (cs4A_of_forall_zero (by simp))
  case zeros => exact fun len h hzero => exec_csumA_of_le h (cs4A_of_forall_zero hzero)
  case ones =>
    intro hones
    refine exec_csumA_of_le le_rfl ?_
    rw [take_eight_din hones]
    decide
  case rest => exact fun len h d hd => exec_csumA_of_le (s := { s with din := d }) h (congrArg cs4A hd)
  case worked =>
    intro hd
    refine ⟨by decide, ?_, by decide, exec_csumA_of_le (by decide) ?_⟩ <;> rw [hd] <;> decide

/-- Settles O19, as O18; that no bit is lost is the bound of R71 on 8 bytes. -/
theorem csumBAnswersVariantB : Obligations.CsumBAnswersVariantB := by
  intro s
  refine ⟨?result, ?tooLong, ?decodes, ?illegal, ?empty, ?ones, ?range, ?worked⟩
  case result => exact fun len h => exec_csumB_of_le h rfl
  case tooLong => exact fun len h => execCsumB_eq_next.mpr (.inl ⟨h, rfl⟩)
  case decodes => exact fun len h => decode_formatD_word (op := .csumB) rfl h
  case illegal => exact fun len h arg d harg => issue_formatD_word (op := .csumB) rfl h harg d s
  case empty => exact exec_csumB_of_le (Nat.zero_le 8) (by rw [List.take_zero]; decide)
  case ones =>
    intro hones
    refine exec_csumB_of_le le_rfl ?_
    rw [take_eight_din hones]
    decide
  case range =>
    intro len _
    have hlen := length_take_din_le s len
    have hres := cs4B_toNat_of_length_le hlen
    refine ⟨BitVec.le_def.mpr ?_, hres⟩
    rw [hres]
    exact nibbleSum_le_240 hlen
  case worked =>
    intro hd
    refine ⟨by decide, ?_, exec_csumB_of_le (by decide) ?_⟩ <;> rw [hd] <;> decide

end Sys2Proof.Machine

/-! ## Proofs: the frame codec, `ENC.A` and `DEC` (41_frame_codec) -/

namespace Sys2Proof.Machine

/-- `rsp.olen` is the number of data bytes whenever these fit in the response (R31, R59). -/
theorem olen_toNat {r : Response} (h : r.data.length ≤ 8) : r.olen.toNat = r.data.length := by
  rw [Response.olen, BitVec.toNat_ofNat]
  omega

/-! ### `ENC.A` -/

/-- An operand of at most 8 bytes between a counter byte and a checksum byte makes a frame of `LEN + 2` bytes. -/
theorem length_frame_of_din (s : State) {len : Nat} (h : len ≤ 8) (c k : Byte) :
    ([c] ++ s.din.toList.take len ++ [k]).length = len + 2 := by
  have hlen := length_dinBytes s len
  rw [dinBytes] at hlen
  simp only [List.length_append, List.length_cons, List.length_nil, hlen]
  omega

/-- `ENC.A` of a legal length answers the frame of its operand (R88). -/
theorem exec_encA_of_le {s : State} {len : Nat} (h : len ≤ 6) {c : Byte} {frame : List Byte}
    (hf : [c] ++ s.din.toList.take len ++ [cs4A ([c] ++ s.din.toList.take len)] = frame) :
    exec (.encA len c) s = .next { s with rsp := some { data := frame } } :=
  encodeDin_eq_next.mpr (.inr ⟨h, by rw [← hf]; rfl⟩)

/-- Settles O23: each clause is the completion lemma of `ENC.A` at the frame of its operand, or a fact about format E, which
has no must-be-zero field. -/
theorem encABuildsVariantAFrame : Obligations.EncABuildsVariantAFrame := by
  intro s
  refine ⟨?result, ?tooLong, ?decodes, ?empty, ?emptyZero, ?longest, ?worked⟩
  case result =>
    intro len h c
    have hdin : (s.din.toList.take len).length ≤ 6 := (List.length_take_le len _).trans h
    have hframe := length_frame_of_din s (len := len) (by omega) c (cs4A ([c] ++ s.din.toList.take len))
    refine ⟨fcEncode_ok .a c hdin, exec_encA_of_le h rfl, ?_⟩
    rw [olen_toNat (hframe.trans_le (by omega)), hframe]
  case tooLong => exact fun len h c => ⟨encodeDin_eq_next.mpr (.inl ⟨h, rfl⟩), rfl⟩
  case decodes => exact fun len h c => decode_word_ok (op := .encA) h rfl
  case empty => exact fun c => exec_encA_of_le (Nat.zero_le 6) rfl
  case emptyZero => exact exec_encA_of_le (Nat.zero_le 6) (by rw [List.take_zero]; decide)
  case longest =>
    intro c t r ht hr
    rw [exec_encA_of_le le_rfl rfl] at ht
    cases ht
    cases hr
    exact length_frame_of_din s (by decide) c _
  case worked =>
    intro hd
    exact ⟨by decide, exec_encA_of_le (by decide) (by rw [hd]; decide)⟩

/-! ### `DEC` -/

/-- The first `LEN` bytes of `DIN`, split by `fc_decode` (R86, R90). -/
theorem fcDecode_take_din (s : State) {len : Nat} (h2 : 2 ≤ len) (h8 : len ≤ 8) :
    fcDecode (s.din.toList.take len) =
      .ok ⟨s.din.toList.getD 0 0, (s.din.toList.drop 1).take (len - 2), s.din.toList.getD (len - 1) 0⟩ := by
  obtain ⟨c, payload, k, hp⟩ := exists_din_parts s h2 h8
  obtain ⟨hc, hpayload, hk, -⟩ := din_parts h2 h8 hp
  rw [← hc, ← hpayload, ← hk]
  exact fcDecode_eq_ok.mpr hp

/-- `DEC` of a legal length answers the parts `fc_decode` splits its operand into (R90). -/
theorem exec_dec_of_fcDecode {s : State} {len : Nat} (h2 : 2 ≤ len) (h8 : len ≤ 8) {p : Parts}
    (hp : fcDecode (s.din.toList.take len) = .ok p) :
    exec (.dec len) s = .next { s with rsp := some { ctr := p.counter, res := p.checksum, data := p.payload } } :=
  execDec_eq_next.mpr (.inr (.inr ⟨h2, h8, p.counter, p.payload, p.checksum, fcDecode_eq_ok.mp hp, rfl⟩))

/-- The payload of a legal frame operand has `LEN - 2` bytes (R90). -/
theorem length_payload_of_din (s : State) {len : Nat} (h8 : len ≤ 8) :
    ((s.din.toList.drop 1).take (len - 2)).length = len - 2 := by
  rw [List.length_take, List.length_drop, length_din]
  omega

/-- Settles O25: each clause is the completion lemma of `DEC` at the parts of its operand, a length failure, or a fact about
the words of format D. -/
theorem decSplitsDin : Obligations.DecSplitsDin := by
  intro s
  refine ⟨?result, ?tooShort, ?tooLong, ?decodes, ?illegal, ?shortest, ?longest, ?worked⟩
  case result =>
    intro len h2 h8
    have hparts := fcDecode_take_din s h2 h8
    have hpayload := length_payload_of_din s h8
    refine ⟨hparts, exec_dec_of_fcDecode h2 h8 hparts, ?_⟩
    rw [olen_toNat (hpayload.trans_le (by omega)), hpayload]
  case tooShort => exact fun len h => execDec_eq_next.mpr (.inr (.inl ⟨h, rfl⟩))
  case tooLong => exact fun len h => execDec_eq_next.mpr (.inl ⟨h, rfl⟩)
  case decodes => exact fun len h => decode_formatD_word (op := .dec) rfl h
  case illegal => exact fun len h arg d harg => issue_formatD_word (op := .dec) rfl h harg d s
  case shortest => exact exec_dec_of_fcDecode le_rfl (by decide) (fcDecode_take_din s le_rfl (by decide))
  case longest =>
    intro t r ht hr
    rw [exec_dec_of_fcDecode (by decide) le_rfl (fcDecode_take_din s (by decide) le_rfl)] at ht
    cases ht
    cases hr
    exact length_payload_of_din s le_rfl
  case worked =>
    intro hd
    have hparts : fcDecode (s.din.toList.take 3) = .ok ⟨0x01#8, [0x31#8], 0x0A#8⟩ := by rw [hd]; rfl
    exact ⟨by decide, exec_dec_of_fcDecode (by decide) (by decide) hparts⟩

end Sys2Proof.Machine

/-! ## Proofs: the transmit counter and `TXAPPEND` (42_tx_sequence) -/

namespace Sys2Proof.Machine

/-! ### The conditional advance -/

/-- Below the limit both counts advance (R100). -/
theorem txNext_of_lt {s : State} (h : s.sentCount.toNat < 2) :
    txNext s = (s.withTxCounter (seqNext s.txCounter)).withSentCount (s.sentCount + 1) := by
  rcases txNext_cases s with ⟨-, hnext, -⟩ | ⟨hge, -⟩
  · exact hnext
  · omega

/-- From the limit on nothing moves (R100). -/
theorem txNext_of_le {s : State} (h : 2 ≤ s.sentCount.toNat) : txNext s = s := by
  rcases txNext_cases s with ⟨hlt, -, -⟩ | ⟨-, hnext⟩
  · omega
  · exact hnext

/-- `sent_count` counts an advance; below the limit its two bits do not wrap. -/
theorem sentCount_txNext_of_lt {s : State} (h : s.sentCount.toNat < 2) :
    (txNext s).sentCount.toNat = s.sentCount.toNat + 1 := by
  rcases txNext_cases s with ⟨-, hnext, hcount⟩ | ⟨hge, -⟩
  · rw [hnext]
    exact hcount
  · omega

/-- `tx_next` keeps `sent_count` at most 2 (R100). -/
theorem sentCount_txNext_le {s : State} (h : s.sentCount.toNat ≤ 2) : (txNext s).sentCount.toNat ≤ 2 := by
  by_cases hlt : s.sentCount.toNat < 2
  · rw [sentCount_txNext_of_lt hlt]
    omega
  · rwa [txNext_of_le (Nat.not_lt.mp hlt)]

/-- The counter after an advance, as a number: 255 plus 1 does not wrap before the modulus is taken (R100). -/
theorem txCounter_txNext_of_lt {s : State} (h : s.sentCount.toNat < 2) :
    (txNext s).txCounter.toNat = (s.txCounter.toNat + 1) % 255 := by
  rw [txNext_of_lt h]
  exact seqNext_toNat s.txCounter

/-- The frame of `TXCOMMIT` on a buffer of 1 to 4 bytes begins with the counter after the advance (R107). -/
theorem head_frame_of_exec_txcommit {s t : State} {r : Response} (hne : s.txBuf ≠ []) (hlen : s.txBuf.length ≤ 4)
    (ht : exec .txcommit s = .next t) (hr : t.rsp = some r) : r.data[0]? = some (txNext s).txCounter := by
  rcases execTxcommit_eq_next.mp ht with ⟨hempty, -⟩ | ⟨-, -, rfl⟩ | ⟨hlong, -⟩
  · exact absurd hempty hne
  · cases hr
    rfl
  · omega

/-- Settles O26: the two branches of `tx_next`, and the counter's values at 254, at 255 and after reset. -/
theorem txNextAdvancesTwice : Obligations.TxNextAdvancesTwice := by
  refine ⟨fun s => ⟨?advance, txNext_of_le, sentCount_txNext_le, rfl⟩, by decide, ?firstFrame⟩
  case advance =>
    intro hlt
    have hcounter := txCounter_txNext_of_lt hlt
    refine ⟨txNext_of_lt hlt, sentCount_txNext_of_lt hlt, fun h254 => ?_, fun h255 => ?_⟩
    · exact BitVec.eq_of_toNat_eq (by rw [hcounter, h254]; rfl)
    · exact BitVec.eq_of_toNat_eq (by rw [hcounter, h255]; rfl)
  case firstFrame =>
    intro buf t r hne hlen ht hr
    exact head_frame_of_exec_txcommit (s := { State.reset with txBuf := buf }) hne hlen ht hr

/-! ### `TXAPPEND` -/

/-- A word of format C with a zero `LEN` decodes (R51). -/
theorem decode_formatC_word {op : Opcode} (hop : op.format = .c) (ch : Byte) :
    decode (BitVec.ofNat 16 (op.code.toNat * 4096) ||| ch.setWidth 16) = .ok (op.instr 0 ch) := by
  have h := decode_word_ok (op := op) (Nat.zero_le 15) (arg := ch) (by simp [hop, Format.zeroFieldsOk])
  simpa using h

/-- A word of format C with a non-zero `LEN` is an illegal command (R51, R58). -/
theorem issue_formatC_word {op : Opcode} (hop : op.format = .c) {len : Nat} (h1 : 1 ≤ len) (hl : len ≤ 15) (arg : Byte)
    (d : Vector Byte 8) (s : State) :
    issue ⟨BitVec.ofNat 16 (op.code.toNat * 4096) ||| (BitVec.ofNat 16 len <<< 8) ||| arg.setWidth 16, d⟩ s =
      .next { s with din := d, rsp := some { status := .failure .illegalCommand } } := by
  have hlen : len ≠ 0 := by omega
  have hdec := decode_word_error (op := op) hl (arg := arg) (by simpa [hop, Format.zeroFieldsOk] using hlen)
  exact issue_of_decode_error (c := ⟨_, d⟩) hdec s

/-- `TXAPPEND` on a buffer with room keeps the character (R104). -/
theorem exec_txappend_of_lt {s : State} (h : s.txBuf.length < 4) (ch : Byte) :
    exec (.txappend ch) s = .next { s with txBuf := s.txBuf ++ [ch], rsp := some {} } :=
  execTxappend_eq_next.mpr (.inl ⟨h, rfl⟩)

/-- `TXAPPEND` on a full buffer drops the character, with the same response (R104). -/
theorem exec_txappend_of_le {s : State} (h : 4 ≤ s.txBuf.length) (ch : Byte) :
    exec (.txappend ch) s = .next { s with rsp := some {} } :=
  execTxappend_eq_next.mpr (.inr ⟨h, rfl⟩)

/-- Settles O29: the two completions of `TXAPPEND`, the words of format C, and the worked example, an append to the empty
buffer of the reset state. -/
theorem txappendKeepsOrDrops : Obligations.TxappendKeepsOrDrops := by
  intro s ch
  refine ⟨fun h => exec_txappend_of_lt h ch, fun h => exec_txappend_of_le h ch, ?decodes, ?illegal, ?worked⟩
  case decodes => exact decode_formatC_word (op := .txappend) rfl ch
  case illegal => exact fun len h1 h15 d => issue_formatC_word (op := .txappend) rfl h1 h15 ch d s
  case worked =>
    intro d
    have hdec : decode 0x7031#16 = .ok (.txappend 0x31#8) := by decide
    rw [issue_eq, hdec]
    exact exec_txappend_of_lt (s := State.reset.withDin d) (by simp [State.reset]) 0x31#8

end Sys2Proof.Machine

/-! ## Proofs: the validator and the expected counter (43_rx_validator) -/

namespace Sys2Proof.Machine

/-! ### The stages of `fv_validate` -/

/-- Stage 1: a frame that decodes goes on to stages 2 and 3 as its parts (R122). -/
theorem fvValidate_of_fcDecode {frame : List Byte} {p : Parts} (h : fcDecode frame = .ok p) (s : State) :
    fvValidate frame s = .ok (validateParts p s) := by
  rw [fvValidate, h]

/-- Stage 2: a wrong sequence byte is reported whatever the checksum is, and nothing is written (R122). -/
theorem validateParts_of_counter_ne {p : Parts} {s : State} (hc : p.counter ≠ s.expectedCounter) :
    validateParts p s = (.sequenceMismatch, s) :=
  if_pos hc

/-- Stage 3: the expected sequence byte with a wrong checksum; nothing is written (R122). -/
theorem validateParts_of_checksum_ne {p : Parts} {s : State} (hc : p.counter = s.expectedCounter)
    (hk : cs4B (p.counter :: p.payload) ≠ p.checksum) : validateParts p s = (.checksumMismatch, s) := by
  rw [validateParts, if_neg (not_not_intro hc), if_pos hk]

/-- Past all stages the frame is accepted, and the counters are written (R122). -/
theorem validateParts_of_checksum_eq {p : Parts} {s : State} (hc : p.counter = s.expectedCounter)
    (hk : cs4B (p.counter :: p.payload) = p.checksum) : validateParts p s = (.accepted, acceptFrame p.counter s) := by
  rw [validateParts, if_neg (not_not_intro hc), if_neg (not_not_intro hk)]

/-- Settles O33: the frame decodes to its parts, and stages 2 and 3 decide on these. -/
theorem validatorPipeline : Obligations.ValidatorPipeline := by
  intro s c k payload
  have hdecode : fcDecode ([c] ++ payload ++ [k]) = .ok ⟨c, payload, k⟩ := fcDecode_parts c k payload
  have hvalidate := fvValidate_of_fcDecode hdecode s
  refine ⟨hdecode, ?body, fun hc => ?sequence, fun hc hk => ?checksum, fun hc hk => ?accepted⟩
  case body => rw [← List.dropLast_eq_take, List.dropLast_concat]
  case sequence => exact hvalidate.trans (congrArg Except.ok (validateParts_of_counter_ne hc))
  case checksum => exact hvalidate.trans (congrArg Except.ok (validateParts_of_checksum_ne hc hk))
  case accepted => exact hvalidate.trans (congrArg Except.ok (validateParts_of_checksum_eq hc hk))

/-! ### The expected counter -/

/-- A command that moves the expected counter has accepted a frame (R121). -/
theorem rsp_of_exec_of_expectedCounter_ne {i : Instr} {s t : State} (ht : exec i s = .next t)
    (hne : t.expectedCounter ≠ s.expectedCounter) : t.rsp = some { outcome := some .accepted } := by
  rcases exec_cases ht with ⟨_, -, -, rfl⟩ | ⟨_, _, -, -, -, rfl⟩ | ⟨_, -, -, rfl⟩ | ⟨_, -, -, -, hrx⟩
  · exact absurd rfl hne
  · obtain ⟨-, hexp, -⟩ := txNext_frame s
    exact absurd hexp hne
  · exact absurd rfl hne
  · rcases hrx with ⟨-, rfl⟩ | ⟨-, -, rfl⟩ | ⟨-, -, rfl⟩
    · exact absurd rfl hne
    · exact absurd rfl hne
    · rfl

/-- What an `RXVAL` with outcome `o` makes of the receive counters: a rejected frame leaves both; an accepted one had the
expected sequence byte, and both advance (R121, R122). -/
theorem counters_of_exec_rxval {len : Nat} {s t : State} {o : ValidationOutcome} (ht : exec (.rxval len) s = .next t)
    (ho : t.rsp = some { outcome := some o }) :
    (o ≠ .accepted ∧ t.expectedCounter = s.expectedCounter ∧ t.validCount = s.validCount) ∨
    (o = .accepted ∧ s.din.toList.getD 0 0 = s.expectedCounter ∧
      t.expectedCounter = seqNext s.expectedCounter ∧ t.validCount = satIncr s.validCount) := by
  rcases execRxval_eq_next_din.mp ht with ⟨-, rfl⟩ | ⟨-, rfl⟩ | ⟨-, -, houtcome⟩
  · cases ho
  · cases ho
  · rcases houtcome with ⟨-, rfl⟩ | ⟨-, -, rfl⟩ | ⟨hseq, -, rfl⟩ <;> cases ho
    · exact .inl ⟨nofun, rfl, rfl⟩
    · exact .inl ⟨nofun, rfl, rfl⟩
    · exact .inr ⟨rfl, hseq, rfl, rfl⟩

/-- `RXVAL` of a legal length with an unexpected sequence byte: only the indicator and the response change (R123). -/
theorem exec_rxval_of_counter_ne {s : State} {len : Nat} (h2 : 2 ≤ len) (h8 : len ≤ 8)
    (hc : s.din.toList.getD 0 0 ≠ s.expectedCounter) :
    exec (.rxval len) s = .next { s with ind := some .fault, rsp := some { outcome := some .sequenceMismatch } } :=
  execRxval_eq_next_din.mpr (.inr (.inr ⟨h2, h8, .inl ⟨hc, rfl⟩⟩))

/-- Settles O34: over all commands by what `exec` can do, for one `RXVAL` by what its outcome says of the counters. -/
theorem expectedCounterRule : Obligations.ExpectedCounterRule := by
  refine ⟨fun i s t => rsp_of_exec_of_expectedCounter_ne, ?accepted, ?rejected, ?never⟩
  case accepted =>
    intro len s t ht hrsp
    rcases counters_of_exec_rxval ht hrsp with ⟨hne, -⟩ | ⟨-, hseq, hexp, -⟩
    · exact absurd rfl hne
    · refine ⟨hseq, by rw [hseq, hexp]; rfl, fun h254 => ?_⟩
      rw [hexp, ← hseq, h254]
      rfl
  case rejected =>
    intro len s t o ht hrsp hne
    rcases counters_of_exec_rxval ht hrsp with ⟨-, hkept⟩ | ⟨hacc, -⟩
    · exact hkept
    · exact absurd hacc hne
  case never =>
    intro len s h2 h8 hrange h255
    have hne : s.din.toList.getD 0 0 ≠ s.expectedCounter := by
      intro heq
      rw [← heq, h255] at hrange
      exact absurd hrange (by decide)
    exact exec_rxval_of_counter_ne h2 h8 hne

end Sys2Proof.Machine

/-! ## Proofs: the indicator policy (44_indicator) -/

namespace Sys2Proof.Machine

/-- An accepted frame shows OK while the updated count is at most 2 (R135). -/
theorem indicator_accepted_of_le {vc : BitVec Config.validWidth} (h : vc.toNat ≤ 2) : indicator .accepted vc = .ok :=
  if_pos h

/-- An accepted frame shows FAULT from an updated count of 3 on (R135). -/
theorem indicator_accepted_of_lt {vc : BitVec Config.validWidth} (h : 2 < vc.toNat) : indicator .accepted vc = .fault :=
  if_neg (Nat.not_le.mpr h)

/-- An `RXVAL` with an outcome sets the indicator by the policy, whatever it was, with the count after the update
(R135, R136). -/
theorem ind_of_exec_rxval {len : Nat} {s t : State} {o : ValidationOutcome} (ht : exec (.rxval len) s = .next t)
    (ho : t.rsp = some { outcome := some o }) : t.ind = some (indicator o t.validCount) := by
  rcases execRxval_eq_next_din.mp ht with ⟨-, rfl⟩ | ⟨-, rfl⟩ | ⟨-, -, houtcome⟩
  · cases ho
  · cases ho
  · rcases houtcome with ⟨-, rfl⟩ | ⟨-, -, rfl⟩ | ⟨-, -, rfl⟩ <;> cases ho <;> rfl

/-- Away from saturation an accepted frame counts by one (R122). -/
theorem satIncr_toNat_of_le_two {vc : BitVec Config.validWidth} (h : vc.toNat ≤ 2) :
    (satIncr vc).toNat = vc.toNat + 1 := by
  rw [satIncr_toNat]
  omega

/-- Settles O36: the branches of the policy, and its use by `RXVAL` at the count after the update. -/
theorem indicatorPolicy : Obligations.IndicatorPolicy := by
  refine ⟨fun vc => ⟨rfl, rfl, indicator_accepted_of_le, indicator_accepted_of_lt⟩,
    fun len s t o => ind_of_exec_rxval, ?accepted⟩
  case accepted =>
    intro len s t hcount ht hrsp
    rcases counters_of_exec_rxval ht hrsp with ⟨hne, -⟩ | ⟨-, -, -, hvc⟩
    · exact absurd rfl hne
    · refine ⟨by rw [hvc, satIncr_toNat_of_le_two hcount], ?_⟩
      rw [ind_of_exec_rxval ht hrsp, hvc, indicator_accepted]
      simp only [Nat.reduceLeDiff]

end Sys2Proof.Machine

/-! ## Proofs: failures and outcomes (60_exceptions) -/

namespace Sys2Proof.Machine

/-! ### Outcomes -/

/-- A command that answers with an outcome is an `RXVAL`, and its response holds that outcome alone, with status OK; on a
mismatch the indicator and the response are all it writes (R150). -/
theorem rxval_of_exec_outcome {i : Instr} {s t : State} {r : Response} {o : ValidationOutcome}
    (ht : exec i s = .next t) (hr : t.rsp = some r) (ho : r.outcome = some o) :
    r = { outcome := some o } ∧ (∃ len, i = .rxval len) ∧
      (o ≠ .accepted → t = { s with ind := some .fault, rsp := some { outcome := some o } }) := by
  rcases exec_cases ht with ⟨_, hnone, -, rfl⟩ | ⟨_, _, hnone, -, -, rfl⟩ | ⟨_, -, -, rfl⟩ | ⟨len, hi, -, -, hrx⟩
  · cases hr
    exact nomatch hnone.symm.trans ho
  · cases hr
    exact nomatch hnone.symm.trans ho
  · cases hr
    exact nomatch ho
  · rcases hrx with ⟨-, rfl⟩ | ⟨-, -, rfl⟩ | ⟨-, -, rfl⟩ <;> cases hr <;> cases ho
    · exact ⟨rfl, ⟨len, hi⟩, fun _ => rfl⟩
    · exact ⟨rfl, ⟨len, hi⟩, fun _ => rfl⟩
    · exact ⟨rfl, ⟨len, hi⟩, fun hne => absurd rfl hne⟩

/-- What the outcome of an `RXVAL` says of its operand (R122, R150). -/
theorem cause_of_exec_rxval {len : Nat} {s t : State} {o : ValidationOutcome} (ht : exec (.rxval len) s = .next t)
    (ho : t.rsp = some { outcome := some o }) :
    (o = .sequenceMismatch ∧ s.din.toList.getD 0 0 ≠ s.expectedCounter) ∨
    (o = .checksumMismatch ∧ s.din.toList.getD 0 0 = s.expectedCounter ∧
      cs4B (s.din.toList.take (len - 1)) ≠ s.din.toList.getD (len - 1) 0) ∨
    (o = .accepted ∧ s.din.toList.getD 0 0 = s.expectedCounter ∧
      cs4B (s.din.toList.take (len - 1)) = s.din.toList.getD (len - 1) 0) := by
  rcases execRxval_eq_next_din.mp ht with ⟨-, rfl⟩ | ⟨-, rfl⟩ | ⟨-, -, houtcome⟩
  · cases ho
  · cases ho
  · rcases houtcome with ⟨hseq, rfl⟩ | ⟨hseq, hsum, rfl⟩ | ⟨hseq, hsum, rfl⟩ <;> cases ho
    · exact .inl ⟨rfl, hseq⟩
    · exact .inr (.inl ⟨rfl, hseq, hsum⟩)
    · exact .inr (.inr ⟨rfl, hseq, hsum⟩)

/-- Settles O41: over all commands by what `exec` can do; the two mismatches by the cause of each outcome. -/
theorem outcomesAreNotFailures : Obligations.OutcomesAreNotFailures := by
  refine ⟨fun i s t r o => rxval_of_exec_outcome, fun len s t ht => ⟨fun hrsp => ?sequence, fun hrsp => ?checksum⟩,
    rfl, rfl, rfl, rfl⟩
  case sequence =>
    rcases cause_of_exec_rxval ht hrsp with ⟨-, hseq⟩ | ⟨hne, -⟩ | ⟨hne, -⟩
    · exact hseq
    · cases hne
    · cases hne
  case checksum =>
    rcases cause_of_exec_rxval ht hrsp with ⟨hne, -⟩ | ⟨-, hcause⟩ | ⟨hne, -⟩
    · cases hne
    · exact hcause
    · cases hne

/-! ### The payload's length -/

/-- `TXCOMMIT` on a buffer that an encode accepts, every buffer of at most 4 bytes among them, ends with status OK (R107,
R146). -/
theorem exec_txcommit_ok {s : State} (h : s.txBuf.length ≤ 6) :
    ∃ t r, exec .txcommit s = .next t ∧ t.rsp = some r ∧ r.status = .ok := by
  by_cases hempty : s.txBuf = []
  · exact ⟨_, _, execTxcommit_eq_next.mpr (.inl ⟨hempty, rfl⟩), rfl, rfl⟩
  · exact ⟨_, _, execTxcommit_eq_next.mpr (.inr (.inl ⟨hempty, h, rfl⟩)), rfl, rfl⟩

/-- Settles O38: the length failure of the two encode commands, and the completion of `TXCOMMIT`. -/
theorem encodeRefusesLargePayload : Obligations.EncodeRefusesLargePayload := by
  refine ⟨fun s c len h7 _ => ?refused, rfl, rfl, fun s h4 => exec_txcommit_ok (h4.trans (by decide))⟩
  case refused => exact ⟨encodeDin_eq_next.mpr (.inl ⟨h7, rfl⟩), encodeDin_eq_next.mpr (.inl ⟨h7, rfl⟩)⟩

/-! ### A full buffer -/

/-- Every `TXAPPEND` answers the same response, whether or not the character was kept (R104, R161). -/
theorem rsp_of_exec_txappend {ch : Byte} {s t : State} (ht : exec (.txappend ch) s = .next t) :
    t.rsp = some { status := .ok } := by
  rcases execTxappend_eq_next.mp ht with ⟨-, rfl⟩ | ⟨-, rfl⟩ <;> rfl

/-- Settles O40: the completion of `TXAPPEND` on a full buffer, and the response it shares with every other append. -/
theorem bufferOverflowIsSilent : Obligations.BufferOverflowIsSilent :=
  fun _ ch hfull => ⟨exec_txappend_of_le hfull.ge ch, fun _ _ _ => rsp_of_exec_txappend⟩

end Sys2Proof.Machine

/-! ## Proofs: command words and their decoder (30_encoding) -/

namespace Sys2Proof

/-! ### The fields of a command's word -/

/-- A count that fits the `LEN` field is read back from it (R52). -/
theorem toNat_lenBits {len : Nat} (h : len < 16) : (BitVec.ofNat 4 len).toNat = len := by
  rw [BitVec.toNat_ofNat]
  exact Nat.mod_eq_of_lt h

/-- The operands of a well-formed command are those in the fields of its word (R51, R52). -/
theorem instr_of_fields {i : Instr} (h : i.WellFormed) : i.opcode.instr i.lenBits.toNat i.argBits = i := by
  cases i with
  | csumA len => exact congrArg Instr.csumA (toNat_lenBits (of_decide_eq_true h))
  | csumB len => exact congrArg Instr.csumB (toNat_lenBits (of_decide_eq_true h))
  | encA len arg => exact congrArg (Instr.encA · arg) (toNat_lenBits (of_decide_eq_true h))
  | encB len arg => exact congrArg (Instr.encB · arg) (toNat_lenBits (of_decide_eq_true h))
  | dec len => exact congrArg Instr.dec (toNat_lenBits (of_decide_eq_true h))
  | txnext => rfl
  | txappend arg => rfl
  | txcommit => rfl
  | rxval len => exact congrArg Instr.rxval (toNat_lenBits (of_decide_eq_true h))

/-- A command's word has zeros in the must-be-zero fields of its format (R51, R58). -/
theorem zeroFieldsOk_fields (i : Instr) : i.opcode.format.zeroFieldsOk i.lenBits.toNat i.argBits = true := by
  cases i <;> rfl

/-- Settles O1: the word's three fields give back the opcode and the operands, and its must-be-zero fields are zero. -/
theorem decodeUndoesEncode : Obligations.DecodeUndoesEncode := by
  intro i hwf
  refine decode_eq_ok.mpr ⟨i.opcode, by simp [encode], ?_, ?_⟩
  · simpa [encode] using zeroFieldsOk_fields i
  · simpa [encode] using (instr_of_fields hwf).symm

/-- The command an opcode names has that opcode. -/
@[simp] theorem opcode_instr (op : Opcode) (len : Nat) (arg : Byte) : (op.instr len arg).opcode = op := by
  cases op <;> rfl

/-- A count that fits the `LEN` field makes a well-formed command (R52). -/
theorem wellFormed_instr (op : Opcode) {len : Nat} (h : len < 16) (arg : Byte) : (op.instr len arg).WellFormed := by
  cases op <;> simp [Opcode.instr, Instr.WellFormed, Instr.wellFormed, h]

/-- The zero check on the `LEN` field, as a number and as a field. -/
theorem lenBits_toNat_eq_zero {len : BitVec 4} : len.toNat = 0 ↔ len = 0#4 := BitVec.toNat_inj (y := 0#4)

/-- With its must-be-zero fields zero, a command's word holds the fields the command was made from (R51). -/
theorem fields_instr {op : Opcode} {len : BitVec 4} {arg : Byte} (hz : op.format.zeroFieldsOk len.toNat arg = true) :
    (op.instr len.toNat arg).lenBits = len ∧ (op.instr len.toNat arg).argBits = arg := by
  cases op <;>
    simp_all [Opcode.format, Format.zeroFieldsOk, Opcode.instr, Instr.lenBits, Instr.argBits, lenBits_toNat_eq_zero]

/-- Settles O2: the fields of the decoded command's word are those of the word itself, and a word is its three fields. -/
theorem encodeUndoesDecode : Obligations.EncodeUndoesDecode := by
  intro cw i hdec
  obtain ⟨op, hop, hz, rfl⟩ := decode_eq_ok.mp hdec
  obtain ⟨hlen, harg⟩ := fields_instr hz
  refine ⟨wellFormed_instr op (BitVec.isLt _) _, ?_⟩
  rw [encode, opcode_instr, ← hop]
  exact (congrArg₂ (joinFields (opField cw)) hlen harg).trans (joinFields_fields cw)

/-! ### The mask table -/

/-- Two joined words are equal exactly if their fields are. -/
theorem joinFields_inj {op op' len len' : BitVec 4} {arg arg' : Byte} :
    joinFields op len arg = joinFields op' len' arg' ↔ op = op' ∧ len = len' ∧ arg = arg' := by
  refine ⟨fun h => ⟨?_, BitVec.eq_of_toNat_eq ?_, ?_⟩, ?_⟩
  · simpa using congrArg opField h
  · simpa using congrArg lenField h
  · simpa using congrArg argField h
  · rintro ⟨rfl, rfl, rfl⟩
    rfl

/-- The bits of `LEN` that a format requires to be zero (R51). -/
def Format.lenMask : Format → BitVec 4
  | .d | .e => 0x0
  | .c | .n => 0xF

/-- The bits of `ARG` that a format requires to be zero (R51). -/
def Format.argMask : Format → Byte
  | .d | .n => 0xFF
  | .e | .c => 0x00

/-- The zero check of a format, by its masks (R51, R55). -/
theorem zeroFieldsOk_iff (f : Format) (len : BitVec 4) (arg : Byte) :
    f.zeroFieldsOk len.toNat arg = true ↔ len &&& f.lenMask = 0 ∧ arg &&& f.argMask = 0 := by
  have hlen : len &&& 0xF#4 = len := BitVec.and_allOnes
  have harg : arg &&& 0xFF#8 = arg := BitVec.and_allOnes
  cases f <;> simp [Format.zeroFieldsOk, Format.lenMask, Format.argMask, hlen, harg, lenBits_toNat_eq_zero]

/-- A row's mask covers `OP` and the must-be-zero fields (R55). -/
theorem mask_tableRow (op : Opcode) : (tableRow op).mask = joinFields 0xF#4 op.format.lenMask op.format.argMask := by
  cases op <;> decide

/-- A row's pattern is its `OP` with all other bits zero (R55). -/
theorem pattern_tableRow (op : Opcode) : (tableRow op).pattern = joinFields op.code 0 0 := by
  cases op <;> decide

/-- A word lies in a row of the table exactly if it has the row's `OP` and zeros where the row's format wants them. -/
theorem masked_eq_pattern_iff (cw : CommandWord) (op : Opcode) :
    cw &&& (tableRow op).mask = (tableRow op).pattern ↔
      opField cw = op.code ∧ op.format.zeroFieldsOk (lenField cw) (argField cw) = true := by
  have hop : opField cw &&& 0xF#4 = opField cw := BitVec.and_allOnes
  conv_lhs => rw [← joinFields_fields cw]
  rw [mask_tableRow, pattern_tableRow, joinFields_and, joinFields_inj, hop, lenField, zeroFieldsOk_iff]

/-- A word decodes to a command of an opcode exactly if it lies in that opcode's row (R55). -/
theorem decode_iff_masked (cw : CommandWord) (op : Opcode) :
    (∃ i, decode cw = .ok i ∧ i.opcode = op) ↔ cw &&& (tableRow op).mask = (tableRow op).pattern := by
  rw [masked_eq_pattern_iff]
  constructor
  · rintro ⟨i, hdec, rfl⟩
    obtain ⟨op, hop, hz, rfl⟩ := decode_eq_ok.mp hdec
    rw [opcode_instr]
    exact ⟨hop, hz⟩
  · rintro ⟨hop, hz⟩
    exact ⟨_, decode_eq_ok.mpr ⟨op, hop, hz, rfl⟩, opcode_instr ..⟩

end Sys2Proof

namespace Sys2Proof.Machine

/-! ### Illegal words -/

/-- The values of `OP` with no row (R57). -/
theorem opcodeOf_eq_none {b : BitVec 4} :
    opcodeOf b = none ↔ b ∈ [0x0#4, 0xA#4, 0xB#4, 0xC#4, 0xD#4, 0xE#4, 0xF#4] := by
  revert b
  decide

/-- With a defined `OP`, a word is illegal exactly if it fails the zero check of its format (R58). -/
theorem illegalWord_of_opcode {cw : CommandWord} {op : Opcode} (hop : opField cw = op.code) :
    IllegalWord cw ↔ op.format.zeroFieldsOk (lenField cw) (argField cw) = false := by
  simp only [opField] at hop
  cases op <;>
    simp [IllegalWord, hop, Opcode.code, Opcode.format, Format.zeroFieldsOk, lenField, argField, lenBits_toNat_eq_zero,
      imp_iff_not_or, -BitVec.extractLsb'_toNat]

/-- The decoder refuses exactly the words that R57 and R58 list. -/
theorem illegalWord_iff (cw : CommandWord) : IllegalWord cw ↔ ∃ e, decode cw = .error e := by
  unfold decode
  rcases h : opcodeOf (opField cw) with _ | op
  · have hres := opcodeOf_eq_none.mp h
    exact ⟨fun _ => ⟨_, rfl⟩, fun _ => .inl hres⟩
  · rw [illegalWord_of_opcode (opcodeOf_eq_some.mp h)]
    by_cases hz : op.format.zeroFieldsOk (lenField cw) (argField cw) = true <;> simp [hz]

/-- Settles O4: the decoder computes each word's fields. -/
theorem sampleWordsDecode : Obligations.SampleWordsDecode := by
  unfold Obligations.SampleWordsDecode
  decide

end Sys2Proof.Machine

/-! ## Proofs: one step of the block (00_scope R7, 70_reset_and_hazards) -/

namespace Sys2Proof.Machine

/-! ### A step on a presented command -/

/-- A step on a command the host has listed is that command issued, with the host's other moves to come. -/
theorem step_of_command {s : State} {c : Command} {rest : List HostInput} (h : s.host = .command c :: rest) :
    step s = issue c (s.withHost rest) := by
  have hs : s = (s.withHost rest).withHost (.command c :: rest) := by
    rw [← h]
    rfl
  exact congrArg step hs

/-- An issued command whose word decodes runs with its data on `DIN` (R49). -/
theorem issue_of_decode_ok {c : Command} {i : Instr} (h : decode c.word = .ok i) (s : State) :
    issue c s = exec i (s.withDin c.data) := by
  rw [issue_eq, h]

/-- Settles O5: a step on the presented command is that command issued. -/
theorem stepRunsDecodedCommand : Obligations.StepRunsDecodedCommand := by
  intro s c rest i hhost hdec
  rw [step_of_command hhost, issue_of_decode_ok hdec]
  rfl

/-- Settles O6: the decoder refuses exactly the listed words. -/
theorem illegalWordsFail : Obligations.IllegalWordsFail := by
  intro s c rest hhost
  refine ⟨fun hill => ?fails, fun hlegal => ?decodes⟩
  case fails =>
    obtain ⟨e, hdec⟩ := (illegalWord_iff c.word).mp hill
    rw [step_of_command hhost]
    exact issue_of_decode_error hdec _
  case decodes =>
    rcases decode_total c.word with hok | herror
    · exact hok
    · exact absurd ((illegalWord_iff c.word).mpr herror) hlegal

/-- Settles O3: a word lies in the row of the opcode it decodes to, so one that lies in none is refused. -/
theorem tableRowsSelectCommands : Obligations.TableRowsSelectCommands := by
  refine ⟨decode_iff_masked, fun c s hnone => ?_⟩
  rcases decode_total c.word with ⟨i, hdec⟩ | ⟨e, hdec⟩
  · exact absurd ((decode_iff_masked c.word i.opcode).mp ⟨i, hdec, rfl⟩) (hnone i.opcode)
  · exact issue_of_decode_error hdec s

/-! ### Waiting, the hazard, the reset -/

/-- Settles O7: an empty host list is the waiting case of a step, the overlap its one fault. -/
theorem waitsOrStopsWithoutCommand : Obligations.WaitsOrStopsWithoutCommand :=
  fun _ => ⟨fun hidle => step_eq_next.mpr (.inl ⟨hidle, rfl⟩), fun _ hoverlap => step_overlap hoverlap⟩

/-- A step on a reset move is the reset event (R165). -/
theorem step_of_reset {s : State} {rest : List HostInput} (h : s.host = .reset :: rest) :
    step s = .next (resetBlock (s.withHost rest)) :=
  step_eq_next.mpr (.inr (.inl ⟨rest, h, rfl⟩))

/-- Settles O8: the reset event writes every register. -/
theorem resetMoveRestoresRegisters : Obligations.ResetMoveRestoresRegisters := by
  intro s rest hhost
  rw [step_of_reset hhost, resetBlock_eq]
  rfl

/-- Settles O9, by evaluating the reset state and its ports. -/
theorem resetStateValues : Obligations.ResetStateValues := by
  unfold Obligations.ResetStateValues
  decide

/-! ### Every command completes -/

/-- `RXVAL` of a legal length ends in one of the three outcomes, so in a next state (R122, R123). -/
theorem exec_rxval_completes (s : State) {len : Nat} (h2 : 2 ≤ len) (h8 : len ≤ 8) :
    ∃ t, exec (.rxval len) s = .next t := by
  by_cases hseq : s.din.toList.getD 0 0 = s.expectedCounter
  · by_cases hsum : cs4B (s.din.toList.take (len - 1)) = s.din.toList.getD (len - 1) 0
    · exact ⟨_, execRxval_eq_next_din.mpr (.inr (.inr ⟨h2, h8, .inr (.inr ⟨hseq, hsum, rfl⟩)⟩))⟩
    · exact ⟨_, execRxval_eq_next_din.mpr (.inr (.inr ⟨h2, h8, .inr (.inl ⟨hseq, hsum, rfl⟩)⟩))⟩
  · exact ⟨_, execRxval_eq_next_din.mpr (.inr (.inr ⟨h2, h8, .inl ⟨hseq, rfl⟩⟩))⟩

/-- Every command ends in a next state: with its result, or with the failure its length gives (R154). -/
theorem exec_completes (i : Instr) (s : State) : ∃ t, exec i s = .next t := by
  cases i with
  | csumA len =>
    rcases Nat.lt_or_ge 8 len with h | h
    · exact ⟨_, execCsumA_eq_next.mpr (.inl ⟨h, rfl⟩)⟩
    · exact ⟨_, execCsumA_eq_next.mpr (.inr ⟨h, rfl⟩)⟩
  | csumB len =>
    rcases Nat.lt_or_ge 8 len with h | h
    · exact ⟨_, execCsumB_eq_next.mpr (.inl ⟨h, rfl⟩)⟩
    · exact ⟨_, execCsumB_eq_next.mpr (.inr ⟨h, rfl⟩)⟩
  | encA len c =>
    rcases Nat.lt_or_ge 6 len with h | h
    · exact ⟨_, encodeDin_eq_next.mpr (.inl ⟨h, rfl⟩)⟩
    · exact ⟨_, encodeDin_eq_next.mpr (.inr ⟨h, rfl⟩)⟩
  | encB len c =>
    rcases Nat.lt_or_ge 6 len with h | h
    · exact ⟨_, encodeDin_eq_next.mpr (.inl ⟨h, rfl⟩)⟩
    · exact ⟨_, encodeDin_eq_next.mpr (.inr ⟨h, rfl⟩)⟩
  | dec len =>
    rcases Nat.lt_or_ge 8 len with h8 | h8
    · exact ⟨_, execDec_eq_next.mpr (.inl ⟨h8, rfl⟩)⟩
    · rcases Nat.lt_or_ge len 2 with h2 | h2
      · exact ⟨_, execDec_eq_next.mpr (.inr (.inl ⟨h2, rfl⟩))⟩
      · exact ⟨_, exec_dec_of_fcDecode h2 h8 (fcDecode_take_din s h2 h8)⟩
  | txnext => exact ⟨_, rfl⟩
  | txappend ch => exact ⟨_, rfl⟩
  | txcommit =>
    rcases Nat.lt_or_ge 6 s.txBuf.length with h | h
    · exact ⟨_, execTxcommit_eq_next.mpr (.inr (.inr ⟨h, rfl⟩))⟩
    · obtain ⟨t, -, ht, -⟩ := exec_txcommit_ok h
      exact ⟨t, ht⟩
  | rxval len =>
    rcases Nat.lt_or_ge 8 len with h8 | h8
    · exact ⟨_, execRxval_eq_next_din.mpr (.inl ⟨h8, rfl⟩)⟩
    · rcases Nat.lt_or_ge len 2 with h2 | h2
      · exact ⟨_, execRxval_eq_next_din.mpr (.inr (.inl ⟨h2, rfl⟩))⟩
      · exact exec_rxval_completes s h2 h8

/-- An issued command ends in a next state, whatever its word (R149, R154). -/
theorem issue_completes (c : Command) (s : State) : ∃ t, issue c s = .next t := by
  rcases decode_total c.word with ⟨i, hdec⟩ | ⟨e, hdec⟩
  · rw [issue_of_decode_ok hdec]
    exact exec_completes i _
  · exact ⟨_, issue_of_decode_error hdec s⟩

/-- Settles O10: commands complete, a wait and a reset do, and the move left over is the overlap. -/
theorem everyCommandCompletes : Obligations.EveryCommandCompletes := by
  refine ⟨exec_completes, fun s => ?_⟩
  rcases hhost : s.host with _ | ⟨c | _ | _, rest⟩
  · exact .inl ⟨s, step_eq_next.mpr (.inl ⟨hhost, rfl⟩)⟩
  · rw [step_of_command hhost]
    exact .inl (issue_completes c _)
  · exact .inl ⟨_, step_of_reset hhost⟩
  · exact .inr ⟨step_overlap hhost, rest, rfl⟩

end Sys2Proof.Machine

/-! ## Proofs: what a step can do to the registers, and the invariants (10_state, sections 5 and 6) -/

namespace Sys2Proof.Machine

/-! ### The register changes of a command -/

/-- Everything a command that takes `s` to `t` can do to the six registers. -/
inductive RegisterChange (s t : State) : Prop where
  /-- No register moves: a stateless command, a failure, an idle transmit command. -/
  | keeps (same : s.SameRegisters t)
  /-- The transmit counter and its gate advance, on a `TXNEXT` or with the buffer emptied by `TXCOMMIT` (R100, R107). -/
  | advances (below : s.sentCount.toNat < 2) (counter : t.txCounter = seqNext s.txCounter)
      (gate : t.sentCount.toNat = s.sentCount.toNat + 1) (buffer : t.txBuf = s.txBuf ∨ t.txBuf = [])
      (receive : s.SameReceive t)
  /-- The buffer changes alone: emptied by a `TXCOMMIT` with a frozen counter, or one character longer (R104, R107). -/
  | buffers (counter : t.txCounter = s.txCounter) (gate : t.sentCount = s.sentCount)
      (buffer : t.txBuf.length = 0 ∨ s.txBuf.length < 4 ∧ t.txBuf.length = s.txBuf.length + 1)
      (receive : s.SameReceive t)
  /-- `RXVAL` rejects a frame (R122). -/
  | rejects (transmit : s.SameTransmit t) (expected : t.expectedCounter = s.expectedCounter)
      (count : t.validCount = s.validCount) (shown : t.ind = some .fault)
  /-- `RXVAL` accepts a frame (R121, R122, R135). -/
  | accepts (transmit : s.SameTransmit t) (expected : t.expectedCounter = seqNext s.expectedCounter)
      (count : t.validCount = satIncr s.validCount)
      (shown : t.ind = some (if s.validCount.toNat + 1 ≤ 2 then .ok else .fault))
      (answer : t.rsp = some { outcome := some .accepted })

/-- What a command can do to the registers. -/
theorem registerChange_of_exec {i : Instr} {s t : State} (ht : exec i s = .next t) : RegisterChange s t := by
  rcases exec_cases ht with ⟨r, -, -, rfl⟩ | ⟨r, buf, -, -, hbuf, rfl⟩ | ⟨ch, -, hroom, rfl⟩ | ⟨len, -, -, -, hrx⟩
  · exact .keeps ⟨⟨rfl, rfl, rfl⟩, rfl, rfl, rfl⟩
  · rcases txNext_cases s with ⟨hlt, hnext, hgate⟩ | ⟨-, hnext⟩
    · rw [hnext]
      refine .advances hlt rfl hgate ?_ ⟨rfl, rfl, rfl⟩
      rcases hbuf with ⟨-, hbuf⟩ | ⟨-, hbuf, -⟩
      · exact .inl hbuf
      · exact .inr hbuf
    · rw [hnext]
      rcases hbuf with ⟨-, rfl⟩ | ⟨-, rfl, -⟩
      · exact .keeps ⟨⟨rfl, rfl, rfl⟩, rfl, rfl, rfl⟩
      · exact .buffers rfl rfl (.inl rfl) ⟨rfl, rfl, rfl⟩
  · exact .buffers rfl rfl (.inr ⟨hroom, List.length_append⟩) ⟨rfl, rfl, rfl⟩
  · rcases hrx with ⟨-, rfl⟩ | ⟨-, -, rfl⟩ | ⟨-, -, rfl⟩
    · exact .rejects ⟨rfl, rfl, rfl⟩ rfl rfl rfl
    · exact .rejects ⟨rfl, rfl, rfl⟩ rfl rfl rfl
    · exact .accepts ⟨rfl, rfl, rfl⟩ rfl rfl (congrArg some (indicator_accepted s.validCount)) rfl

/-- A change speaks of the registers it starts from, not of the rest of that state. -/
theorem RegisterChange.of_sameRegisters {s s' t : State} (hsame : s'.SameRegisters s) (h : RegisterChange s' t) :
    RegisterChange s t := by
  cases s
  cases s'
  obtain ⟨⟨rfl, rfl, rfl⟩, rfl, rfl, rfl⟩ := hsame
  cases h with
  | keeps same => exact .keeps same
  | advances below counter gate buffer receive => exact .advances below counter gate buffer receive
  | buffers counter gate buffer receive => exact .buffers counter gate buffer receive
  | rejects transmit expected count shown => exact .rejects transmit expected count shown
  | accepts transmit expected count shown answer => exact .accepts transmit expected count shown answer

/-- What an issued command can do to the registers; a word that does not decode moves none (R149). -/
theorem registerChange_of_issue {c : Command} {s t : State} (ht : issue c s = .next t) : RegisterChange s t := by
  rcases decode_total c.word with ⟨i, hdec⟩ | ⟨e, hdec⟩
  · rw [issue_of_decode_ok hdec] at ht
    exact .of_sameRegisters (s' := s.withDin c.data) ⟨⟨rfl, rfl, rfl⟩, rfl, rfl, rfl⟩ (registerChange_of_exec ht)
  · rw [issue_of_decode_error hdec] at ht
    cases ht
    exact .keeps ⟨⟨rfl, rfl, rfl⟩, rfl, rfl, rfl⟩

/-- What a step can do to the registers: reset them all, or what a command can; a wait moves none (R165, R167). -/
theorem registerChange_of_step {s t : State} (ht : step s = .next t) :
    (∃ rest, s.host = .reset :: rest ∧ State.reset.SameRegisters t) ∨ RegisterChange s t := by
  rcases hhost : s.host with _ | ⟨c | _ | _, rest⟩
  · rw [step_eq_next.mpr (.inl ⟨hhost, rfl⟩)] at ht
    cases ht
    exact .inr (.keeps ⟨⟨rfl, rfl, rfl⟩, rfl, rfl, rfl⟩)
  · rw [step_of_command hhost] at ht
    exact .inr (.of_sameRegisters (s' := s.withHost rest) ⟨⟨rfl, rfl, rfl⟩, rfl, rfl, rfl⟩ (registerChange_of_issue ht))
  · rw [step_of_reset hhost] at ht
    cases ht
    exact .inl ⟨rest, rfl, ⟨rfl, rfl, rfl⟩, rfl, rfl, rfl⟩
  · rw [step_overlap hhost] at ht
    cases ht

/-! ### Legal ranges -/

/-- The reset state has every register in range and meets the run invariant. -/
theorem reset_runInv : State.reset.RunInv := by decide

/-- The ranges are a property of the registers alone. -/
theorem inRange_congr {s t : State} (h : s.SameRegisters t) : s.InRange ↔ t.InRange := by
  obtain ⟨⟨hc, hg, hb⟩, he, -, -⟩ := h
  rw [State.InRange, hc, hg, hb, he]

/-- Every command keeps every register in its legal range. -/
theorem RegisterChange.inRange {s t : State} (h : RegisterChange s t) (hs : s.InRange) : t.InRange := by
  obtain ⟨hc, he, hg, hb⟩ := hs
  cases h with
  | keeps same => exact (inRange_congr same).mp ⟨hc, he, hg, hb⟩
  | advances below counter gate buffer receive =>
    refine ⟨counter ▸ seqNext_le _, receive.1 ▸ he, by omega, ?_⟩
    rcases buffer with hbuf | hbuf <;> simp [hbuf, hb]
  | buffers counter gate buffer receive => exact ⟨counter ▸ hc, receive.1 ▸ he, gate ▸ hg, by omega⟩
  | rejects transmit expected count shown =>
    obtain ⟨hc', hg', hb'⟩ := transmit
    exact ⟨hc' ▸ hc, expected ▸ he, hg' ▸ hg, hb' ▸ hb⟩
  | accepts transmit expected count shown answer =>
    obtain ⟨hc', hg', hb'⟩ := transmit
    exact ⟨hc' ▸ hc, expected ▸ seqNext_le _, hg' ▸ hg, hb' ▸ hb⟩

/-- Settles O49: a reset gives the reset values, and every other step is a change that keeps the ranges. -/
theorem stepKeepsRegistersInRange : Obligations.StepKeepsRegistersInRange := by
  intro s t hs ht
  rcases registerChange_of_step ht with ⟨_, -, hreset⟩ | hchange
  · exact (inRange_congr hreset).mp reset_runInv.1
  · exact hchange.inRange hs

/-! ### The invariant of a run from reset -/

/-- The run invariant is a property of the registers alone. -/
theorem runInv_congr {s t : State} (h : s.SameRegisters t) : s.RunInv ↔ t.RunInv := by
  have hrange := inRange_congr h
  obtain ⟨⟨hc, hg, -⟩, he, hv, hi⟩ := h
  rw [State.RunInv, hrange, hc, hg, he, hv, hi]

/-- Every command keeps the run invariant: each register it writes moves together with the one it is bound to. -/
theorem RegisterChange.runInv {s t : State} (h : RegisterChange s t) (hs : s.RunInv) : t.RunInv := by
  obtain ⟨hrange, hgate, hok, hnone, hexp⟩ := hs
  refine ⟨h.inRange hrange, ?_⟩
  cases h with
  | keeps same =>
    obtain ⟨-, hrest⟩ := (runInv_congr same).mp ⟨hrange, hgate, hok, hnone, hexp⟩
    exact hrest
  | advances below counter gate buffer receive =>
    obtain ⟨he, hv, hi⟩ := receive
    refine ⟨?_, hi ▸ hv ▸ hok, hi ▸ hv ▸ hnone, he ▸ hv ▸ hexp⟩
    rw [counter, seqNext_toNat, gate]
    omega
  | buffers counter gate buffer receive =>
    obtain ⟨he, hv, hi⟩ := receive
    exact ⟨counter ▸ gate ▸ hgate, hi ▸ hv ▸ hok, hi ▸ hv ▸ hnone, he ▸ hv ▸ hexp⟩
  | rejects transmit expected count shown =>
    obtain ⟨hc, hg, -⟩ := transmit
    exact ⟨hc ▸ hg ▸ hgate, by simp [shown], by simp [shown], expected ▸ count ▸ hexp⟩
  | accepts transmit expected count shown answer =>
    obtain ⟨hc, hg, -⟩ := transmit
    have hcount : t.validCount.toNat = min (s.validCount.toNat + 1) (2 ^ 32 - 1) := by rw [count, satIncr_toNat]
    refine ⟨hc ▸ hg ▸ hgate, fun hshown => ?_, by simp [shown], fun hbelow => ?_⟩
    · have hle : s.validCount.toNat + 1 ≤ 2 := by
        by_contra hgt
        rw [shown, if_neg hgt] at hshown
        cases hshown
      omega
    · have hbefore := hexp (by omega)
      rw [expected, seqNext_toNat, hbefore, hcount]
      omega

/-- Settles O50: a reset gives the reset values, and every other step is a change that keeps the relations. -/
theorem stepKeepsRunInvariant : Obligations.StepKeepsRunInvariant := by
  intro s t hs ht
  rcases registerChange_of_step ht with ⟨_, -, hreset⟩ | hchange
  · exact (runInv_congr hreset).mp reset_runInv
  · exact hchange.runInv hs

/-- Settles O51: the run invariant at reset contains the ranges. -/
theorem resetMeetsInvariants : Obligations.ResetMeetsInvariants :=
  ⟨reset_runInv.1, reset_runInv⟩

/-! ### Steps without a reset -/

/-- A step that is no reset does to the registers what a command can. -/
theorem registerChange_of_step_of_not_reset {s t : State} (hhost : ∀ rest, s.host ≠ .reset :: rest)
    (ht : step s = .next t) : RegisterChange s t := by
  rcases registerChange_of_step ht with ⟨rest, hreset, -⟩ | hchange
  · exact absurd hreset (hhost rest)
  · exact hchange

/-- `valid_count` never falls: it saturates (R16). -/
theorem le_satIncr (v : BitVec Config.validWidth) : v.toNat ≤ (satIncr v).toNat := by
  have hlt : v.toNat < 2 ^ 32 := v.isLt
  rw [satIncr_toNat]
  omega

/-- Settles O48, one change at a time: a register that a change writes moves by its increment. -/
theorem countsNeverFallWithoutReset : Obligations.CountsNeverFallWithoutReset := by
  intro s t hhost ht
  cases registerChange_of_step_of_not_reset hhost ht with
  | keeps same =>
    obtain ⟨⟨hc, hg, -⟩, he, hv, -⟩ := same
    simp [hc, hg, he, hv]
  | advances below counter gate buffer receive =>
    obtain ⟨he, hv, -⟩ := receive
    have hmoved := seqNext_toNat s.txCounter
    exact ⟨hv ▸ le_rfl, by omega, fun _ => counter ▸ hmoved, fun hne => absurd he.symm hne,
      fun hfrozen => absurd below (by omega), fun hne => absurd he.symm hne⟩
  | buffers counter gate buffer receive =>
    obtain ⟨he, hv, -⟩ := receive
    simp [counter, gate, he, hv]
  | rejects transmit expected count shown =>
    obtain ⟨hc, hg, -⟩ := transmit
    simp [hc, hg, expected, count]
  | accepts transmit expected count shown answer =>
    obtain ⟨hc, hg, -⟩ := transmit
    have hmoved := seqNext_toNat s.expectedCounter
    exact ⟨count ▸ le_satIncr _, hg ▸ le_rfl, fun hne => absurd hc.symm hne, fun _ => expected ▸ hmoved,
      fun _ => ⟨hc.symm, hg.symm⟩, fun _ => answer⟩

end Sys2Proof.Machine

/-! ## Proofs: the laws of the two checksums (40_checksum, section 1) -/

namespace Sys2Proof.Machine

/-! ### The closed form -/

/-- The fold of a non-zero sum is its remainder modulo 15, with 15 in place of 0: a folding step takes away a multiple of
15. -/
theorem fold4_of_pos {s : Nat} (h : 1 ≤ s) : fold4 s = (s - 1) % 15 + 1 := by
  refine fold4_induction (P := fun s r => 1 ≤ s → r = (s - 1) % 15 + 1) ?fits ?steps s h
  case fits =>
    intro s hle hpos
    omega
  case steps =>
    intro s r h16 ih _
    have hr := ih (foldStep_lt h16).2
    rw [foldStep_eq] at hr
    omega

/-- Variant A of a non-zero sum, as a number. -/
theorem cs4A_toNat_of_pos {data : List Byte} (h : 0 < nibbleSum data) :
    (cs4A data).toNat = 14 - (nibbleSum data - 1) % 15 := by
  rw [cs4A_toNat, fold4_of_pos h]
  omega

/-- A byte's nibbles add up to 0 only if the byte is 0. -/
theorem nibbles_eq_zero_iff (b : Byte) : lowNibble b + highNibble b = 0 ↔ b = 0#8 := by
  have hzero : b.toNat = 0 ↔ b = 0#8 := BitVec.toNat_inj (y := 0#8)
  rw [lowNibble_eq, highNibble_eq, ← hzero]
  omega

/-- The sum is 0 only for zero bytes. -/
theorem nibbleSum_eq_zero_iff (data : List Byte) : nibbleSum data = 0 ↔ ∀ b ∈ data, b = 0#8 := by
  induction data with
  | nil => simp
  | cons b bs ih => rw [nibbleSum_cons, Nat.add_eq_zero_iff, nibbles_eq_zero_iff, ih, List.forall_mem_cons]

/-- Settles O15: the closed form by induction along the fold, and Variant A as 15 minus it. -/
theorem foldClosedForm : Obligations.FoldClosedForm := by
  refine ⟨fun s => fold4_of_pos, by decide, fun data => ⟨?full, nibbleSum_eq_zero_iff data, ?multiple, ?other⟩⟩
  case full =>
    rw [← BitVec.toNat_inj, cs4A_toNat, ← fold4_eq_zero_iff]
    have := fold4_le (nibbleSum data)
    simp only [BitVec.toNat_ofNat]
    omega
  case multiple =>
    rw [← BitVec.toNat_inj]
    simp only [BitVec.toNat_ofNat]
    rcases Nat.eq_zero_or_pos (nibbleSum data) with hzero | hpos
    · rw [cs4A_toNat, hzero, (fold4_eq_zero_iff 0).mpr rfl]
      simp
    · rw [cs4A_toNat_of_pos hpos]
      omega
  case other =>
    intro hne
    rw [cs4A_toNat_of_pos (by omega)]
    omega

/-! ### The variants apart -/

/-- The two variants agree on no sum below 263: Variant A is 15 minus the folded sum, Variant B the sum modulo 256. -/
theorem nibbleSum_ge_of_cs4_eq {data : List Byte} (h : cs4A data = cs4B data) : 263 ≤ nibbleSum data := by
  have hnat : (cs4A data).toNat = (cs4B data).toNat := congrArg BitVec.toNat h
  rw [cs4B_toNat] at hnat
  rcases Nat.eq_zero_or_pos (nibbleSum data) with hzero | hpos
  · rw [cs4A_toNat, hzero, (fold4_eq_zero_iff 0).mpr rfl] at hnat
    omega
  · rw [cs4A_toNat_of_pos hpos] at hnat
    by_contra hlt
    rcases Nat.lt_or_ge (nibbleSum data) 256 with hbyte | hwrap
    · rw [Nat.mod_eq_of_lt hbyte] at hnat
      omega
    · have hq : (nibbleSum data - 1) / 15 = 17 := by omega
      omega

/-- On at most 8 bytes the two variants differ. -/
theorem cs4A_ne_cs4B {data : List Byte} (h : data.length ≤ 8) : cs4A data ≠ cs4B data := by
  intro heq
  have := nibbleSum_ge_of_cs4_eq heq
  have := nibbleSum_le_240 h
  omega

/-- Settles O16: the smallest sum of an agreement is past the bound of 8 bytes. -/
theorem variantsNeverAgree : Obligations.VariantsNeverAgree := by
  refine ⟨fun data => cs4A_ne_cs4B, fun data => nibbleSum_ge_of_cs4_eq, fun data hsum => ?_⟩
  rw [cs4A, cs4B, hsum]
  decide

/-! ### Blind spots -/

/-- Both variants see the bytes through the nibble sum alone. -/
theorem cs4_congr {data data' : List Byte} (h : nibbleSum data' = nibbleSum data) :
    cs4A data' = cs4A data ∧ cs4B data' = cs4B data := by
  rw [cs4A, cs4A, cs4B, cs4B, h]
  exact ⟨rfl, rfl⟩

/-- A byte with its nibbles swapped has the same two nibbles. -/
theorem nibbles_swap (b : Byte) :
    lowNibble (b.extractLsb' 0 4 ++ b.extractLsb' 4 4) = highNibble b ∧
      highNibble (b.extractLsb' 0 4 ++ b.extractLsb' 4 4) = lowNibble b := by
  constructor
  · rw [← toNat_extractLsb'_low, BitVec.extractLsb'_append_eq_right, toNat_extractLsb'_high]
  · rw [← toNat_extractLsb'_high, BitVec.extractLsb'_append_eq_left, toNat_extractLsb'_low]

/-- A swap of the nibbles within any bytes keeps the sum. -/
theorem nibbleSum_of_swaps {data data' : List Byte}
    (h : List.Forall₂ (fun b b' => b' = b ∨ b' = b.extractLsb' 0 4 ++ b.extractLsb' 4 4) data data') :
    nibbleSum data' = nibbleSum data := by
  induction h with
  | nil => rfl
  | @cons b b' bs bs' hb _ ih =>
    rw [nibbleSum_cons, nibbleSum_cons, ih]
    rcases hb with rfl | rfl
    · rfl
    · obtain ⟨hlow, hhigh⟩ := nibbles_swap b
      rw [hlow, hhigh, Nat.add_comm (highNibble b)]

/-- Settles O17: reorderings and swaps keep the nibble sum, and Variant A is a function of a non-zero sum modulo 15. -/
theorem checksumBlindSpots : Obligations.ChecksumBlindSpots := by
  refine ⟨fun data data' h => cs4_congr (nibbleSum_perm h), fun data data' h => cs4_congr (nibbleSum_of_swaps h), ?_⟩
  intro data data' hpos hpos' hmod
  apply BitVec.eq_of_toNat_eq
  rw [cs4A_toNat_of_pos hpos, cs4A_toNat_of_pos hpos']
  omega

end Sys2Proof.Machine

/-! ## Proofs: the frame codec and `ENC.B` (41_frame_codec) -/

namespace Sys2Proof.Machine

/-! ### Encode and decode -/

/-- Settles O20: the encode is defined by its length check. -/
theorem encodeBuildsFrame : Obligations.EncodeBuildsFrame := by
  refine fun c payload => ⟨fun hlong v => if_pos hlong, fun hfits => ⟨fcEncode_ok .a c hfits, fcEncode_ok .b c hfits, ?_⟩⟩
  intro v frame hframe
  rw [fcEncode_ok v c hfits] at hframe
  cases hframe
  have hlen : (c :: payload ++ [checksum v (c :: payload)]).length = payload.length + 2 := by simp
  omega

/-- Settles O21, on the frame written as first byte, middle and last byte. -/
theorem decodeSplitsFrame : Obligations.DecodeSplitsFrame := by
  refine fun frame => ⟨fcDecode_short, fun hlong => ?_⟩
  obtain ⟨c, payload, k, rfl⟩ := exists_parts hlong
  exact ⟨⟨c, payload, k⟩, fcDecode_parts c k payload, by simp, by simp, by simp⟩

/-- Encoding the parts of a frame gives that frame exactly if its checksum byte is the variant's. -/
theorem fcEncode_parts_iff (v : Variant) {c k : Byte} {payload : List Byte} (h : payload.length ≤ 6) :
    fcEncode v c payload = .ok (c :: (payload ++ [k])) ↔ k = checksum v (c :: payload) := by
  rw [fcEncode_ok v c h, Except.ok.injEq, List.cons_append, parts_inj]
  simp [eq_comm]

/-- Settles O22: decode is inverse to joining three parts, and encode joins counter and payload with the right checksum. -/
theorem codecRoundTrip : Obligations.CodecRoundTrip := by
  constructor
  · exact fun v c payload h => ⟨_, fcEncode_ok v c h, fcDecode_parts ..⟩
  · intro v frame p hlen hdec
    obtain rfl := fcDecode_eq_ok.mp hdec
    refine ⟨rfl, fcEncode_parts_iff v ?_⟩
    simp only [List.length_cons, List.length_append, List.length_nil] at hlen
    omega

/-! ### `ENC.B` -/

/-- `ENC.B` of a legal length answers the frame of its operand (R89). -/
theorem exec_encB_of_le {s : State} {len : Nat} (h : len ≤ 6) {c : Byte} {frame : List Byte}
    (hf : [c] ++ s.din.toList.take len ++ [cs4B ([c] ++ s.din.toList.take len)] = frame) :
    exec (.encB len c) s = .next { s with rsp := some { data := frame } } :=
  encodeDin_eq_next.mpr (.inr ⟨h, by rw [← hf]; rfl⟩)

/-- No body of at most 7 bytes has a larger Variant B checksum than 0xD2 (R71, R89). -/
theorem cs4B_le_of_length_le_seven {body : List Byte} (h : body.length ≤ 7) : (cs4B body).toNat ≤ 0xD2 := by
  have := nibbleSum_le body
  rw [cs4B_toNat_of_length_le (by omega)]
  omega

/-- Settles O24: each clause is the completion lemma of `ENC.B` at the frame of its operand, or a fact about format E, which
has no must-be-zero field. -/
theorem encBBuildsVariantBFrame : Obligations.EncBBuildsVariantBFrame := by
  intro s
  refine ⟨?result, ?tooLong, ?decodes, ?empty, ?largest, fun body => cs4B_le_of_length_le_seven, ?worked⟩
  case result =>
    intro len h c
    have hframe := length_frame_of_din s (len := len) (by omega) c (cs4B ([c] ++ s.din.toList.take len))
    refine ⟨exec_encB_of_le h rfl, ?_⟩
    rw [olen_toNat (hframe.trans_le (by omega)), hframe]
  case tooLong => exact fun len h c => encodeDin_eq_next.mpr (.inl ⟨h, rfl⟩)
  case decodes => exact fun len h c => decode_word_ok (op := .encB) h rfl
  case empty => exact exec_encB_of_le (Nat.zero_le 6) (by rw [List.take_zero]; decide)
  case largest =>
    intro hones
    have hdin : s.din.toList.take 6 = List.replicate 6 0xFF#8 := by
      rw [List.eq_replicate_of_mem hones, List.length_take, length_din]
      rfl
    refine exec_encB_of_le le_rfl ?_
    rw [hdin]
    decide
  case worked =>
    intro hd
    exact ⟨by decide, exec_encB_of_le (by decide) (by rw [hd]; decide)⟩

end Sys2Proof.Machine

/-! ## Proofs: runs of the transmit side and `TXCOMMIT` (42_tx_sequence) -/

namespace Sys2Proof.Machine

/-! ### The counter over many calls -/

/-- `tx_next` carries the pair "counter and gate are the smaller of `n` and 2" from `n` to `n + 1` (R101). -/
theorem txNext_counts {s : State} {n : Nat} (hc : s.txCounter.toNat = min n 2) (hg : s.sentCount.toNat = min n 2) :
    (txNext s).txCounter.toNat = min (n + 1) 2 ∧ (txNext s).sentCount.toNat = min (n + 1) 2 := by
  by_cases hlt : s.sentCount.toNat < 2
  · rw [txCounter_txNext_of_lt hlt, sentCount_txNext_of_lt hlt]
    omega
  · rw [txNext_of_le (Nat.not_lt.mp hlt)]
    omega

/-- Counter and gate after `n` calls from 0 (R101). -/
theorem txNext_iterate_counts {s : State} (hc : s.txCounter = 0) (hg : s.sentCount = 0) (n : Nat) :
    (txNext^[n] s).txCounter.toNat = min n 2 ∧ (txNext^[n] s).sentCount.toNat = min n 2 := by
  induction n with
  | zero => simp [hc, hg]
  | succ n ih =>
    obtain ⟨ihc, ihg⟩ := ih
    rw [Function.iterate_succ_apply']
    exact txNext_counts ihc ihg

/-- Settles O28, by induction on the number of calls. -/
theorem txCounterSequence : Obligations.TxCounterSequence := by
  intro s n hc hg
  obtain ⟨hcounter, hgate⟩ := txNext_iterate_counts hc hg n
  refine ⟨hcounter, hgate, fun m hm => BitVec.eq_of_toNat_eq ?_⟩
  obtain ⟨hm2, -⟩ := txNext_iterate_counts hc hg m
  rw [hm2, min_eq_right hm]
  rfl

/-- Settles O27: `TXNEXT` is `tx_next` with its counter in the response. -/
theorem txnextAnswersNewCounter : Obligations.TxnextAnswersNewCounter := by
  intro s
  refine ⟨fun hlt => execTxnext_eq_next.mpr ?_, fun hfrozen => execTxnext_eq_next.mpr ?_⟩
  · rw [txNext_of_lt hlt]
    rfl
  · rw [txNext_of_le hfrozen]
    rfl

/-! ### The buffer over many appends -/

/-- An append to a buffer within its capacity keeps the first four bytes of what it would hold without a bound (R104). -/
theorem txBuf_appendChar {s : State} (h : s.txBuf.length ≤ 4) (ch : Byte) :
    (appendChar ch s).txBuf = (s.txBuf ++ [ch]).take 4 := by
  unfold appendChar
  split
  · rename_i hroom
    rw [List.take_of_length_le (by simpa using hroom)]
    rfl
  · rename_i hfull
    have hlen : s.txBuf.length = 4 := le_antisymm h (Nat.not_lt.mp hfull)
    rw [List.take_append_of_le_length hlen.ge, List.take_of_length_le h]

/-- Cutting a list to `n` bytes before more are appended does not change its first `n` bytes. -/
theorem take_append_of_take (n : Nat) (l m : List Byte) : (l.take n ++ m).take n = (l ++ m).take n := by
  have hrest : n - min n l.length = n - l.length := by omega
  rw [List.take_append, List.take_append, List.take_take, min_self, List.length_take, hrest]

/-- Appends to a buffer within its capacity keep the first four bytes of all (R105). -/
theorem txBuf_foldl_appendChar (chars : List Byte) {s : State} (h : s.txBuf.length ≤ 4) :
    (chars.foldl (fun t ch => appendChar ch t) s).txBuf = (s.txBuf ++ chars).take 4 := by
  induction chars generalizing s with
  | nil => rw [List.foldl_nil, List.append_nil, List.take_of_length_le h]
  | cons ch chars ih =>
    have hbuf := txBuf_appendChar h ch
    have hlen : (appendChar ch s).txBuf.length ≤ 4 := hbuf ▸ List.length_take_le ..
    rw [List.foldl_cons, ih hlen, hbuf, take_append_of_take, List.append_assoc, List.singleton_append]

/-- Settles O30, by induction on the characters from any buffer within the capacity. -/
theorem appendsKeepFirstFour : Obligations.AppendsKeepFirstFour := by
  intro s chars hempty
  refine ⟨?_, fun t u ch hu => ?_⟩
  · rw [txBuf_foldl_appendChar chars (by simp [hempty]), hempty, List.nil_append]
  · cases hu
    rfl

/-! ### `TXCOMMIT` -/

/-- `TXCOMMIT` on an empty buffer: no frame, no register changes (R108). -/
theorem exec_txcommit_of_empty {s : State} (h : s.txBuf = []) : exec .txcommit s = .next { s with rsp := some {} } :=
  execTxcommit_eq_next.mpr (.inl ⟨h, rfl⟩)

/-- `TXCOMMIT` on a buffer that an encode accepts: advance, frame, empty buffer (R107). -/
theorem exec_txcommit_of_ne {s : State} (hne : s.txBuf ≠ []) (hlen : s.txBuf.length ≤ 6) :
    exec .txcommit s = .next (((txNext s).withTxBuf []).withRsp
      { data := (txNext s).txCounter :: s.txBuf ++ [cs4A ((txNext s).txCounter :: s.txBuf)] }) :=
  execTxcommit_eq_next.mpr (.inr (.inl ⟨hne, hlen, rfl⟩))

/-- Settles O31: the completions of `TXCOMMIT`, with `tx_next` below and at its limit. -/
theorem txcommitSendsBuffer : Obligations.TxcommitSendsBuffer := by
  intro s
  refine ⟨fun hempty => ⟨exec_txcommit_of_empty hempty, rfl⟩, fun hne hlen hlt => ?_, fun hne hlen hfrozen => ?_⟩
  · rw [exec_txcommit_of_ne hne (by omega), txNext_of_lt hlt]
    rfl
  · rw [exec_txcommit_of_ne hne (by omega), txNext_of_le hfrozen]
    rfl

/-- In a run the counter after the advance is 1 while no advance was spent, and 2 otherwise (R109). -/
theorem txCounter_txNext_of_runInv {s : State} (h : s.RunInv) :
    (txNext s).txCounter.toNat = if s.sentCount.toNat = 0 then 1 else 2 := by
  obtain ⟨⟨-, -, hle, -⟩, hgate, -⟩ := h
  by_cases hlt : s.sentCount.toNat < 2
  · rw [txCounter_txNext_of_lt hlt, hgate]
    split <;> omega
  · rw [txNext_of_le (Nat.not_lt.mp hlt), hgate]
    split <;> omega

/-- Variant A is at most 0x0F (R74). -/
theorem cs4A_le (data : List Byte) : (cs4A data).toNat ≤ 0x0F := by
  rw [cs4A_toNat]
  omega

/-- The frame a `TXCOMMIT` answers on a buffer that an encode accepts (R107). -/
theorem data_of_exec_txcommit {s t : State} {r : Response} (hne : s.txBuf ≠ []) (hlen : s.txBuf.length ≤ 6)
    (ht : exec .txcommit s = .next t) (hr : t.rsp = some r) :
    r.data = (txNext s).txCounter :: (s.txBuf ++ [cs4A ((txNext s).txCounter :: s.txBuf)]) := by
  rw [exec_txcommit_of_ne hne hlen] at ht
  cases ht
  cases hr
  rfl

/-- Settles O32: the frame of `TXCOMMIT`, with the run invariant for its counter byte and its length. -/
theorem committedFramesAreBounded : Obligations.CommittedFramesAreBounded := by
  intro s t r hinv hne ht hr
  have hcounter := txCounter_txNext_of_runInv hinv
  have hzero : s.sentCount.toNat = 0 ↔ s.sentCount = 0 := BitVec.toNat_inj (y := 0#2)
  obtain ⟨⟨-, -, -, hbuf⟩, -⟩ := hinv
  have hdata := data_of_exec_txcommit hne (by omega) ht hr
  have hlen : r.data.length = s.txBuf.length + 2 := by simp [hdata]
  have holen : r.olen.toNat = r.data.length := olen_toNat (by omega)
  have hpos := List.length_pos_of_ne_nil hne
  refine ⟨fun hnone => ?first, fun hspent => ?later, by omega, by omega, holen,
    cs4A ((txNext s).txCounter :: s.txBuf), ?last, cs4A_le _, ?body⟩
  case first =>
    rw [if_pos (hzero.mpr hnone)] at hcounter
    rw [hdata, List.getElem?_cons_zero]
    exact congrArg some (BitVec.eq_of_toNat_eq hcounter)
  case later =>
    rw [if_neg (mt hzero.mp hspent)] at hcounter
    rw [hdata, List.getElem?_cons_zero]
    exact congrArg some (BitVec.eq_of_toNat_eq hcounter)
  case last => simp [hdata]
  case body => simp [hdata]

end Sys2Proof.Machine

/-! ## Proofs: `RXVAL` and the latched indicator (43_rx_validator, 44_indicator) -/

namespace Sys2Proof.Machine

/-! ### The outcomes and failures of `RXVAL` -/

/-- `RXVAL` of a legal length with the expected sequence byte and a wrong checksum (R122, R123). -/
theorem exec_rxval_of_checksum_ne {s : State} {len : Nat} (h2 : 2 ≤ len) (h8 : len ≤ 8)
    (hc : s.din.toList.getD 0 0 = s.expectedCounter)
    (hk : cs4B (s.din.toList.take (len - 1)) ≠ s.din.toList.getD (len - 1) 0) :
    exec (.rxval len) s = .next { s with ind := some .fault, rsp := some { outcome := some .checksumMismatch } } :=
  execRxval_eq_next_din.mpr (.inr (.inr ⟨h2, h8, .inr (.inl ⟨hc, hk, rfl⟩)⟩))

/-- `RXVAL` of a legal length with the expected sequence byte and the Variant B checksum (R122, R123, R135). -/
theorem exec_rxval_of_checksum_eq {s : State} {len : Nat} (h2 : 2 ≤ len) (h8 : len ≤ 8)
    (hc : s.din.toList.getD 0 0 = s.expectedCounter)
    (hk : cs4B (s.din.toList.take (len - 1)) = s.din.toList.getD (len - 1) 0) :
    exec (.rxval len) s = .next (((acceptFrame s.expectedCounter s).withInd
      (if s.validCount.toNat + 1 ≤ 2 then .ok else .fault)).withRsp { outcome := some .accepted }) :=
  execRxval_eq_next_din.mpr (.inr (.inr ⟨h2, h8, .inr (.inr ⟨hc, hk, by rw [indicator_accepted]⟩)⟩))

/-- `RXVAL` of fewer than 2 bytes fails (R123, R147). -/
theorem exec_rxval_of_lt {len : Nat} (h : len < 2) (s : State) :
    exec (.rxval len) s = .next { s with rsp := some { status := .failure .frameTooShort } } :=
  execRxval_eq_next_din.mpr (.inr (.inl ⟨h, rfl⟩))

/-- Settles O35: the three outcomes and the two failures. -/
theorem rxvalValidatesFrame : Obligations.RxvalValidatesFrame :=
  fun s _ => ⟨exec_rxval_of_counter_ne, exec_rxval_of_checksum_ne, exec_rxval_of_checksum_eq,
    fun h => exec_rxval_of_lt h s, fun h => execRxval_eq_next_din.mpr (.inl ⟨h, rfl⟩)⟩

/-- A frame that does not decode gives the validator no outcome (R122). -/
theorem fvValidate_of_fcDecode_error {frame : List Byte} {f : Failure} (h : fcDecode frame = .error f) (s : State) :
    fvValidate frame s = .error f := by
  rw [fvValidate, h]

/-- Settles O39: the stages in their order. -/
theorem sequenceReportedBeforeChecksum : Obligations.SequenceReportedBeforeChecksum :=
  fun s => ⟨fun _ _ h => fvValidate_of_fcDecode_error h s, fun _ h => exec_rxval_of_lt h s,
    fun _ => exec_rxval_of_counter_ne, fun _ => exec_rxval_of_checksum_ne⟩

/-! ### The latch -/

/-- From two accepted frames on a command keeps the count there and moves the indicator to FAULT alone. -/
theorem RegisterChange.latched {s t : State} (h : RegisterChange s t) (hs : 2 ≤ s.validCount.toNat) :
    2 ≤ t.validCount.toNat ∧ (t.ind ≠ s.ind → t.ind = some .fault) := by
  cases h with
  | keeps same =>
    obtain ⟨-, -, hv, hi⟩ := same
    exact ⟨hv ▸ hs, fun hne => absurd hi.symm hne⟩
  | advances below counter gate buffer receive =>
    obtain ⟨-, hv, hi⟩ := receive
    exact ⟨hv ▸ hs, fun hne => absurd hi.symm hne⟩
  | buffers counter gate buffer receive =>
    obtain ⟨-, hv, hi⟩ := receive
    exact ⟨hv ▸ hs, fun hne => absurd hi.symm hne⟩
  | rejects transmit expected count shown => exact ⟨count ▸ hs, fun _ => shown⟩
  | accepts transmit expected count shown answer =>
    rw [if_neg (by omega)] at shown
    exact ⟨count ▸ hs.trans (le_satIncr _), fun _ => shown⟩

/-- Settles O37: every outcome of `RXVAL` from a count of 2 on shows FAULT, and no other command moves count or
indicator. -/
theorem indicatorLatchesFault : Obligations.IndicatorLatchesFault := by
  refine ⟨fun len s hs h2 h8 => ?shows, fun s t hs hhost ht => ?keeps⟩
  case keeps => exact (registerChange_of_step_of_not_reset hhost ht).latched hs
  case shows =>
    by_cases hc : s.din.toList.getD 0 0 = s.expectedCounter
    · by_cases hk : cs4B (s.din.toList.take (len - 1)) = s.din.toList.getD (len - 1) 0
      · have ht := exec_rxval_of_checksum_eq h2 h8 hc hk
        rw [if_neg (by omega)] at ht
        exact ⟨_, ht, rfl, hs.trans (le_satIncr _)⟩
      · exact ⟨_, exec_rxval_of_checksum_ne h2 h8 hc hk, rfl, hs⟩
    · exact ⟨_, exec_rxval_of_counter_ne h2 h8 hc, rfl, hs⟩

end Sys2Proof.Machine

/-! ## Proofs: frames of the commands, and what a command depends on (00_scope, section 4; 20_memory) -/

namespace Sys2Proof.Machine

/-! ### What each family of commands leaves unchanged -/

/-- Writing the response port alone keeps registers, `DIN` and the host's moves. -/
theorem sameRegisters_withRsp {s t : State} (h : ∃ r, t = s.withRsp r) : s.SameRegisters t ∧ s.SameHostSide t := by
  obtain ⟨r, rfl⟩ := h
  exact ⟨⟨⟨rfl, rfl, rfl⟩, rfl, rfl, rfl⟩, rfl, rfl⟩

/-- Settles O43: each of the five commands writes the response port alone. -/
theorem statelessCommandsFrame : Obligations.StatelessCommandsFrame := by
  intro s t len c h
  apply sameRegisters_withRsp
  rcases h with h | h | h | h | h
  · rcases execCsumA_eq_next.mp h with ⟨-, ht⟩ | ⟨-, ht⟩ <;> exact ⟨_, ht⟩
  · rcases execCsumB_eq_next.mp h with ⟨-, ht⟩ | ⟨-, ht⟩ <;> exact ⟨_, ht⟩
  · rcases encodeDin_eq_next.mp h with ⟨-, ht⟩ | ⟨-, ht⟩ <;> exact ⟨_, ht⟩
  · rcases encodeDin_eq_next.mp h with ⟨-, ht⟩ | ⟨-, ht⟩ <;> exact ⟨_, ht⟩
  · rcases execDec_eq_next.mp h with ⟨-, ht⟩ | ⟨-, ht⟩ | ⟨-, -, _, _, _, -, ht⟩ <;> exact ⟨_, ht⟩

/-- No command writes `DIN` or the host's moves (R7, R30). -/
theorem sameHostSide_of_exec {i : Instr} {s t : State} (ht : exec i s = .next t) : s.SameHostSide t := by
  rcases exec_cases ht with ⟨_, -, -, rfl⟩ | ⟨_, _, -, -, -, rfl⟩ | ⟨_, -, -, rfl⟩ | ⟨_, -, -, -, hrx⟩
  · exact ⟨rfl, rfl⟩
  · obtain ⟨-, -, -, -, hdin, -, hhost⟩ := txNext_frame s
    exact ⟨hdin.symm, hhost.symm⟩
  · exact ⟨rfl, rfl⟩
  · rcases hrx with ⟨-, rfl⟩ | ⟨-, -, rfl⟩ | ⟨-, -, rfl⟩ <;> exact ⟨rfl, rfl⟩

/-- A command other than `RXVAL` leaves the receive side (R8). -/
theorem sameReceive_of_exec {i : Instr} {s t : State} (hi : ∀ len, i ≠ .rxval len) (ht : exec i s = .next t) :
    s.SameReceive t := by
  rcases exec_cases ht with ⟨_, -, -, rfl⟩ | ⟨_, _, -, -, -, rfl⟩ | ⟨_, -, -, rfl⟩ | ⟨len, hrx, -⟩
  · exact ⟨rfl, rfl, rfl⟩
  · obtain ⟨-, hexp, hcount, hind, -⟩ := txNext_frame s
    exact ⟨hexp.symm, hcount.symm, hind.symm⟩
  · exact ⟨rfl, rfl, rfl⟩
  · exact absurd hrx (hi len)

/-- Settles O44: the receive side over all three commands, then what each keeps of the transmit side. -/
theorem transmitCommandsFrame : Obligations.TransmitCommandsFrame := by
  refine fun s t ch => ⟨fun h => ?shared, fun h => ?txnext, fun h => ?txappend, fun h hempty => ?txcommit⟩
  case shared =>
    rcases h with h | h | h <;> exact ⟨sameReceive_of_exec (by simp) h, sameHostSide_of_exec h⟩
  case txnext =>
    obtain ⟨hbuf, -⟩ := txNext_frame s
    obtain rfl := execTxnext_eq_next.mp h
    exact hbuf
  case txappend => rcases execTxappend_eq_next.mp h with ⟨-, rfl⟩ | ⟨-, rfl⟩ <;> exact ⟨rfl, rfl⟩
  case txcommit =>
    rw [exec_txcommit_of_empty hempty] at h
    cases h
    exact ⟨⟨rfl, rfl, rfl⟩, rfl, rfl, rfl⟩

/-- Settles O45: each outcome and each failure of `RXVAL` writes the receive side and the response port alone. -/
theorem rxvalFrame : Obligations.RxvalFrame := by
  intro s t len ht
  rcases execRxval_eq_next_din.mp ht with ⟨-, rfl⟩ | ⟨-, rfl⟩ | ⟨-, -, ⟨-, rfl⟩ | ⟨-, -, rfl⟩ | ⟨-, -, rfl⟩⟩
  · exact ⟨⟨rfl, rfl, rfl⟩, ⟨rfl, rfl⟩, fun _ => ⟨rfl, rfl⟩⟩
  · exact ⟨⟨rfl, rfl, rfl⟩, ⟨rfl, rfl⟩, fun _ => ⟨rfl, rfl⟩⟩
  · exact ⟨⟨rfl, rfl, rfl⟩, ⟨rfl, rfl⟩, fun _ => ⟨rfl, rfl⟩⟩
  · exact ⟨⟨rfl, rfl, rfl⟩, ⟨rfl, rfl⟩, fun _ => ⟨rfl, rfl⟩⟩
  · exact ⟨⟨rfl, rfl, rfl⟩, ⟨rfl, rfl⟩, fun hne => absurd rfl hne⟩

/-! ### What a command depends on -/

/-- `tx_next` reads and writes registers alone. -/
theorem txNext_withPorts (s : State) (d : Vector Byte Config.dbufSize) (r : Option Response) (h : List HostInput) :
    txNext { s with din := d, rsp := r, host := h } = { txNext s with din := d, rsp := r, host := h } := by
  unfold txNext
  split <;> rfl

/-- A command reads of `DIN` its operand alone, and neither the earlier response nor the host's other moves: with these
replaced, its next state and response are the same (R22, R30, R39). -/
theorem exec_withPorts {i : Instr} {s t : State} {d : Vector Byte Config.dbufSize} (r : Option Response)
    (h : List HostInput) (hd : d.toList.take (dinUse i) = s.din.toList.take (dinUse i)) (ht : exec i s = .next t) :
    exec i { s with din := d, rsp := r, host := h } = .next { t with din := d, host := h } := by
  have hop : ∀ len, dinUse i = len → dinBytes { s with din := d, rsp := r, host := h } len = dinBytes s len :=
    fun _ hlen => hlen ▸ hd
  cases i with
  | csumA len =>
    rcases execCsumA_eq_next.mp ht with ⟨hlen, rfl⟩ | ⟨hlen, rfl⟩
    · exact execCsumA_eq_next.mpr (.inl ⟨hlen, rfl⟩)
    · exact execCsumA_eq_next.mpr (.inr ⟨hlen, by rw [hop len rfl]; rfl⟩)
  | csumB len =>
    rcases execCsumB_eq_next.mp ht with ⟨hlen, rfl⟩ | ⟨hlen, rfl⟩
    · exact execCsumB_eq_next.mpr (.inl ⟨hlen, rfl⟩)
    · exact execCsumB_eq_next.mpr (.inr ⟨hlen, by rw [hop len rfl]; rfl⟩)
  | encA len c =>
    rcases encodeDin_eq_next.mp ht with ⟨hlen, rfl⟩ | ⟨hlen, rfl⟩
    · exact encodeDin_eq_next.mpr (.inl ⟨hlen, rfl⟩)
    · exact encodeDin_eq_next.mpr (.inr ⟨hlen, by rw [hop len rfl]; rfl⟩)
  | encB len c =>
    rcases encodeDin_eq_next.mp ht with ⟨hlen, rfl⟩ | ⟨hlen, rfl⟩
    · exact encodeDin_eq_next.mpr (.inl ⟨hlen, rfl⟩)
    · exact encodeDin_eq_next.mpr (.inr ⟨hlen, by rw [hop len rfl]; rfl⟩)
  | dec len =>
    rcases execDec_eq_next.mp ht with ⟨hlen, rfl⟩ | ⟨hlen, rfl⟩ | ⟨h2, h8, c, payload, k, hp, rfl⟩
    · exact execDec_eq_next.mpr (.inl ⟨hlen, rfl⟩)
    · exact execDec_eq_next.mpr (.inr (.inl ⟨hlen, rfl⟩))
    · exact execDec_eq_next.mpr (.inr (.inr ⟨h2, h8, c, payload, k, (hop len rfl).trans hp, rfl⟩))
  | txnext =>
    obtain rfl := execTxnext_eq_next.mp ht
    exact execTxnext_eq_next.mpr (by rw [txNext_withPorts s d r h]; rfl)
  | txappend ch =>
    rcases execTxappend_eq_next.mp ht with ⟨hlen, rfl⟩ | ⟨hlen, rfl⟩
    · exact execTxappend_eq_next.mpr (.inl ⟨hlen, rfl⟩)
    · exact execTxappend_eq_next.mpr (.inr ⟨hlen, rfl⟩)
  | txcommit =>
    rcases execTxcommit_eq_next.mp ht with ⟨hempty, rfl⟩ | ⟨hne, hlen, rfl⟩ | ⟨hlen, rfl⟩
    · exact execTxcommit_eq_next.mpr (.inl ⟨hempty, rfl⟩)
    · exact execTxcommit_eq_next.mpr (.inr (.inl ⟨hne, hlen, by rw [txNext_withPorts s d r h]; rfl⟩))
    · exact execTxcommit_eq_next.mpr (.inr (.inr ⟨hlen, rfl⟩))
  | rxval len =>
    rcases execRxval_eq_next.mp ht with ⟨hlen, rfl⟩ | ⟨hlen, rfl⟩ | ⟨h2, h8, c, payload, k, hp, houtcome⟩
    · exact execRxval_eq_next.mpr (.inl ⟨hlen, rfl⟩)
    · exact execRxval_eq_next.mpr (.inr (.inl ⟨hlen, rfl⟩))
    · refine execRxval_eq_next.mpr (.inr (.inr ⟨h2, h8, c, payload, k, (hop len rfl).trans hp, ?_⟩))
      rcases houtcome with ⟨hc, rfl⟩ | ⟨hc, hk, rfl⟩ | ⟨hc, hk, rfl⟩
      · exact .inl ⟨hc, rfl⟩
      · exact .inr (.inl ⟨hc, hk, rfl⟩)
      · exact .inr (.inr ⟨hc, hk, rfl⟩)

/-- Settles O47: with the operand's bytes the same, the new `DIN` is all that differs. -/
theorem dinBeyondOperandIgnored : Obligations.DinBeyondOperandIgnored := by
  intro i s t d hd ht
  obtain ⟨-, hhost⟩ := sameHostSide_of_exec ht
  have h := exec_withPorts s.rsp s.host hd ht
  rw [h, hhost]

/-- Settles O46: two states with the same registers differ in their ports alone. -/
theorem commandsForgetThePast : Obligations.CommandsForgetThePast := by
  intro i s s' t hregs hdin ht
  have hs' : s' = { s with din := s'.din, rsp := s'.rsp, host := s'.host } := by
    cases s
    cases s'
    obtain ⟨⟨rfl, rfl, rfl⟩, rfl, rfl, rfl⟩ := hregs
    rfl
  have h := exec_withPorts (d := s'.din) s'.rsp s'.host (by rw [hdin]) ht
  rw [← hs'] at h
  exact ⟨_, h, ⟨⟨rfl, rfl, rfl⟩, rfl, rfl, rfl⟩, rfl⟩

/-! ### Failures -/

/-- A command that answers a failure writes the response port alone, with the status alone (R154). -/
theorem eq_withRsp_of_exec_failure {i : Instr} {s t : State} {r : Response} {f : Failure} (ht : exec i s = .next t)
    (hr : t.rsp = some r) (hf : r.status = .failure f) : t = { s with rsp := some { status := .failure f } } := by
  rcases exec_cases ht with ⟨r', -, hstatus, rfl⟩ | ⟨r', _, -, hok, -, rfl⟩ | ⟨_, -, -, rfl⟩ | ⟨_, -, -, -, hrx⟩
  · cases hr
    rcases hstatus with hok | ⟨f', rfl⟩
    · exact nomatch hok.symm.trans hf
    · cases hf
      rfl
  · cases hr
    exact nomatch hok.symm.trans hf
  · cases hr
    cases hf
  · rcases hrx with ⟨-, rfl⟩ | ⟨-, -, rfl⟩ | ⟨-, -, rfl⟩ <;> cases hr <;> cases hf

/-- The same of an issued command, an illegal word included (R149, R154). -/
theorem eq_of_issue_failure {c : Command} {s t : State} {r : Response} {f : Failure} (ht : issue c s = .next t)
    (hr : t.rsp = some r) (hf : r.status = .failure f) :
    t = { s with din := c.data, rsp := some { status := .failure f } } := by
  rcases decode_total c.word with ⟨i, hdec⟩ | ⟨e, hdec⟩
  · rw [issue_of_decode_ok hdec] at ht
    exact eq_withRsp_of_exec_failure ht hr hf
  · rw [issue_of_decode_error hdec] at ht
    cases ht
    cases hr
    cases hf
    rfl

/-- An issued command does not see the data and the response of the one before it (R22, R39). -/
theorem issue_withPorts (c : Command) (s : State) (d : Vector Byte Config.dbufSize) (r : Option Response) :
    issue c { s with din := d, rsp := r } = issue c s := by
  rcases decode_total c.word with ⟨i, hdec⟩ | ⟨e, hdec⟩
  · obtain ⟨t, ht⟩ := exec_completes i (s.withDin c.data)
    obtain ⟨hdin, hhost⟩ := sameHostSide_of_exec ht
    have h := exec_withPorts (d := c.data) r s.host rfl ht
    rw [issue_of_decode_ok hdec, issue_of_decode_ok hdec, ht]
    have hback : { t with din := c.data, host := s.host } = t := by
      rw [show c.data = t.din from hdin, show s.host = t.host from hhost]
    exact h.trans (congrArg _ hback)
  · rw [issue_of_decode_error hdec, issue_of_decode_error hdec]

/-- Settles O42: a failure writes the ports alone, which no later command sees. -/
theorem failureChangesNoRegister : Obligations.FailureChangesNoRegister := by
  refine ⟨fun i s t r f => eq_withRsp_of_exec_failure, fun c s t r f ht hr hf => ?_⟩
  obtain rfl := eq_of_issue_failure ht hr hf
  exact ⟨rfl, fun c' => issue_withPorts c' s c.data _⟩

end Sys2Proof.Machine

/-! ## Proofs: ports, and the host's side of a command (20_memory, 30_encoding sections 4 and 5) -/

namespace Sys2Proof.Machine

/-! ### Codes -/

/-- Each value of `ind` has one code on its status port (R61). -/
theorem indCode_inj {a b : Option Indicator} : indCode a = indCode b ↔ a = b := by
  rcases a with _ | _ | _ <;> rcases b with _ | _ | _ <;> decide

/-- No value of `ind` has the code 0b01 (R61). -/
theorem indCode_ne_one (a : Option Indicator) : indCode a ≠ 0b01#2 := by
  rcases a with _ | _ | _ <;> decide

/-- Status codes are at most 4 (R60). -/
theorem status_code_le (st : Status) : st.code.toNat ≤ 4 := by
  rcases st with _ | f
  · decide
  · cases f <;> decide

/-- Settles O58: the codes by evaluation, the indicator's port by the injectivity of its code, the length port by the
capacity of the buffer. -/
theorem portCodes : Obligations.PortCodes := by
  refine ⟨rfl, rfl, rfl, rfl, rfl, status_code_le, rfl, rfl, rfl, rfl, fun s => ?_⟩
  refine ⟨indCode_inj (b := none), indCode_inj (b := some .ok), indCode_inj (b := some .fault), indCode_ne_one s.ind, ?_⟩
  intro hlen
  rw [stTxBufLen, BitVec.toNat_ofNat]
  omega

/-! ### Buffers on 64-bit ports -/

/-- Byte 0 of a port is the first byte of the sequence (R31, R35). -/
theorem portByte_cons_zero (b : Byte) (bs : List Byte) : portByte (portOfBytes (b :: bs)) 0 = b := by
  apply BitVec.eq_of_getLsbD_eq
  intro j hj
  have hport : j < 64 := by omega
  simp [portByte, portOfBytes, hj, hport]

/-- The other bytes of a port are those of the rest of the sequence (R31, R35). -/
theorem portByte_cons_succ (b : Byte) (bs : List Byte) {i : Nat} (h : i + 1 < 8) :
    portByte (portOfBytes (b :: bs)) (i + 1) = portByte (portOfBytes bs) i := by
  apply BitVec.eq_of_getLsbD_eq
  intro j hj
  have hb : b.getLsbD (8 * (i + 1) + j) = false := BitVec.getLsbD_of_ge _ _ (by omega)
  have hidx : 8 * (i + 1) + j - 8 = 8 * i + j := by omega
  have hport : 8 * (i + 1) + j < 64 := by omega
  have hlow : ¬ 8 * (i + 1) + j < 8 := by omega
  simp [portByte, portOfBytes, hj, hb, hidx, hport, hlow, -BitVec.getLsbD_eq_getElem]

/-- Byte `i` of a port is byte `i` of the sequence on it, and 0 past its end (R31, R35). -/
theorem portByte_portOfBytes (bytes : List Byte) {i : Nat} (h : i < 8) :
    portByte (portOfBytes bytes) i = bytes.getD i 0 := by
  induction bytes generalizing i with
  | nil => simp [portByte, portOfBytes]
  | cons b bs ih =>
    cases i with
    | zero => exact portByte_cons_zero b bs
    | succ i => rw [portByte_cons_succ b bs h, ih (by omega), List.getD_cons_succ]

/-- Byte `i` of a vector of eight given byte by byte. -/
theorem getD_toList_ofFn (f : Fin 8 → Byte) {i : Nat} (h : i < 8) : (Vector.ofFn f).toList.getD i 0 = f ⟨i, h⟩ := by
  simp [List.getD_eq_getElem?_getD, h]

/-- Settles O59: a port byte by byte, on the response side and on the data side. -/
theorem buffersOnPorts : Obligations.BuffersOnPorts := by
  refine ⟨fun r i _ hi => portByte_portOfBytes r.data hi, fun p i hi => getD_toList_ofFn _ hi, fun d => ?_⟩
  apply Vector.ext
  intro i hi
  rw [dinOfPort, Vector.getElem_ofFn, portByte_portOfBytes _ hi]
  simp [List.getD_eq_getElem?_getD, hi]

/-! ### Lines of assembler text -/

/-- What `assemble` can answer (R62). -/
theorem assemble_eq_some {l : AsmLine} {c : Command} :
    assemble l = some c ↔
      (l.bytes.length ≤ 8 ∧ l.instr.WellFormed) ∧ c = ⟨encode l.instr, padDin l.bytes⟩ := by
  simp only [assemble, Option.ite_none_right_eq_some, Bool.and_eq_true, decide_eq_true_eq, Option.some_inj]
  exact and_congr_right fun _ => eq_comm

/-- Settles O60: the command of a line carries the word of the command the line names, which decodes to it. -/
theorem assemblerLines : Obligations.AssemblerLines := by
  refine ⟨fun l c hasm => ?_, fun l hlen hwf => ⟨_, assemble_eq_some.mpr ⟨⟨hlen, hwf⟩, rfl⟩⟩, rfl, fun _ => rfl⟩
  obtain ⟨⟨-, hwf⟩, rfl⟩ := assemble_eq_some.mp hasm
  exact ⟨decodeUndoesEncode _ hwf, fun i hi => getD_toList_ofFn _ hi⟩

/-- The bytes of a sequence that fits in `DIN` stand there in order (R62). -/
theorem take_padDin {bytes : List Byte} (h : bytes.length ≤ 8) : (padDin bytes).toList.take bytes.length = bytes := by
  apply List.ext_getElem
  · rw [List.length_take, length_din, min_eq_left h]
  · intro i hi hi'
    simp [padDin, hi']

end Sys2Proof.Machine

/-! ## Proofs: the two nodes and the loop-back (43_rx_validator section 4, 70_reset_and_hazards section 3) -/

namespace Sys2Proof.Machine

/-! ### Two nodes -/

/-- What a step of one node is (R8). -/
theorem stepNode_eq_next {y z : System} {n : Node} :
    y.stepNode n = .next z ↔ ∃ s, step (y.block n) = .next s ∧ z = y.withBlock n s := by
  unfold System.stepNode
  rcases step (y.block n) with s | _ | _ <;> simp [eq_comm]

/-- Settles O57: a step of a node writes that node's block alone. -/
theorem nodesShareNoState : Obligations.NodesShareNoState := by
  intro y z
  constructor
  · intro h
    obtain ⟨s, hs, rfl⟩ := stepNode_eq_next.mp h
    exact ⟨rfl, hs⟩
  · intro h
    obtain ⟨s, hs, rfl⟩ := stepNode_eq_next.mp h
    exact ⟨rfl, hs⟩

/-! ### Variant A frames at a receiver -/

/-- A legal frame whose checksum is Variant A, the one the transmitter's commands use. -/
def VariantAFrame (f : List Byte) : Prop :=
  ∃ (c : Byte) (payload : List Byte), payload.length ≤ 6 ∧ f = c :: (payload ++ [cs4A (c :: payload)])

/-- A Variant A frame by its length and its last byte, as the link's invariant says it. -/
theorem variantAFrame_iff (f : List Byte) :
    VariantAFrame f ↔ 2 ≤ f.length ∧ f.length ≤ 8 ∧ f.getLast? = some (cs4A f.dropLast) := by
  constructor
  · rintro ⟨c, payload, hlen, rfl⟩
    have htotal : (c :: (payload ++ [cs4A (c :: payload)])).length = payload.length + 2 := by simp
    refine ⟨by omega, by omega, ?_⟩
    rw [← List.cons_append, List.getLast?_concat, List.dropLast_concat]
  · rintro ⟨h2, h8, hlast⟩
    obtain ⟨c, payload, k, rfl⟩ := exists_parts h2
    simp only [List.length_cons, List.length_append, List.length_nil] at h8
    rw [← List.cons_append, List.getLast?_concat, List.dropLast_concat, Option.some_inj] at hlast
    exact ⟨c, payload, by omega, by rw [hlast]⟩

/-- The frames of `TXCOMMIT` and `ENC.A` are Variant A frames (R88, R107). -/
theorem variantAFrame_of_exec {i : Instr} {s t : State} {r : Response}
    (hi : i = .txcommit ∨ ∃ len c, i = .encA len c) (ht : exec i s = .next t) (hr : t.rsp = some r)
    (hne : r.data ≠ []) : VariantAFrame r.data := by
  rcases hi with rfl | ⟨len, c, rfl⟩
  · rcases execTxcommit_eq_next.mp ht with ⟨-, rfl⟩ | ⟨-, hlen, rfl⟩ | ⟨-, rfl⟩ <;> cases hr
    · exact absurd rfl hne
    · exact ⟨_, s.txBuf, hlen, rfl⟩
    · exact absurd rfl hne
  · rcases encodeDin_eq_next.mp ht with ⟨-, rfl⟩ | ⟨hlen, rfl⟩ <;> cases hr
    · exact absurd rfl hne
    · exact ⟨c, dinBytes s len, (length_dinBytes s len).trans_le (by omega), rfl⟩

/-- A Variant A frame that arrives uncorrupted is rejected: for its sequence byte, or for its checksum, which cannot be
the Variant B checksum too (R127). -/
theorem exec_rxval_of_variantAFrame {rx : State} {f : List Byte} (hf : VariantAFrame f)
    (hdin : rx.din.toList.take f.length = f) :
    (f[0]? ≠ some rx.expectedCounter → exec (.rxval f.length) rx =
      .next { rx with ind := some .fault, rsp := some { outcome := some .sequenceMismatch } }) ∧
    (f[0]? = some rx.expectedCounter → exec (.rxval f.length) rx =
      .next { rx with ind := some .fault, rsp := some { outcome := some .checksumMismatch } }) := by
  obtain ⟨h2, h8, -⟩ := (variantAFrame_iff f).mp hf
  obtain ⟨c, payload, hlen, hparts⟩ := hf
  have hop : dinBytes rx f.length = c :: (payload ++ [cs4A (c :: payload)]) := hdin.trans hparts
  have hk : cs4B (c :: payload) ≠ cs4A (c :: payload) :=
    (cs4A_ne_cs4B (by rw [List.length_cons]; omega)).symm
  rw [show f[0]? = some c by rw [hparts, List.getElem?_cons_zero], ne_eq, Option.some_inj]
  exact ⟨fun hc => execRxval_eq_next.mpr (.inr (.inr ⟨h2, h8, c, payload, _, hop, .inl ⟨hc, rfl⟩⟩)),
    fun hc => execRxval_eq_next.mpr (.inr (.inr ⟨h2, h8, c, payload, _, hop, .inr (.inl ⟨hc, hk, rfl⟩)⟩))⟩

/-- Settles O52: what the two commands answer is a Variant A frame. -/
theorem transmitterFrameNeverAccepted : Obligations.TransmitterFrameNeverAccepted :=
  fun _ _ _ _ _ hi ht hr hne hdin => exec_rxval_of_variantAFrame (variantAFrame_of_exec hi ht hr hne) hdin

/-- Settles O53: the receiver computes the checksum that `ENC.B` appended. -/
theorem variantBFrameAccepted : Obligations.VariantBFrameAccepted := by
  intro s rx len hlen
  refine ⟨_, _, exec_encB_of_le hlen rfl, rfl, length_frame_of_din s (by omega) _ _, fun hdin => ?_⟩
  exact ⟨_, execRxval_eq_next.mpr (.inr (.inr ⟨by omega, by omega, rx.expectedCounter, s.din.toList.take len, _, hdin,
    .inr (.inr ⟨rfl, rfl, rfl⟩)⟩)), rfl⟩

/-! ### The loop-back -/

/-- A receiver that has accepted nothing and does not show OK. -/
def NothingAccepted (s : State) : Prop := s.expectedCounter = 0 ∧ s.validCount = 0 ∧ s.ind ≠ some .ok

/-- The link's invariant with the frames named. -/
theorem link_inv_iff (l : Link) :
    l.Inv ↔ l.nodes.transmitter.InRange ∧ (∀ f ∈ l.sent, VariantAFrame f) ∧ NothingAccepted l.nodes.receiver := by
  simp only [Link.Inv, variantAFrame_iff, NothingAccepted]

/-- The frames for the bus come from a `TXCOMMIT` or an `ENC.A`, and are the data of its response (R111). -/
theorem of_mem_sentFrames {c : Command} {rsp : Option Response} {f : List Byte} (h : f ∈ sentFrames c rsp) :
    ∃ i r, decode c.word = .ok i ∧ (i = .txcommit ∨ ∃ len a, i = .encA len a) ∧ rsp = some r ∧ r.data ≠ [] ∧
      f = r.data := by
  unfold sentFrames at h
  split at h
  · rename_i r hdec
    split at h
    · cases h
    · rename_i hne
      exact ⟨_, r, hdec, .inl rfl, rfl, hne, List.mem_singleton.mp h⟩
  · rename_i len a r hdec
    split at h
    · cases h
    · rename_i hne
      exact ⟨_, r, hdec, .inr ⟨len, a, rfl⟩, rfl, hne, List.mem_singleton.mp h⟩
  · cases h

/-- A transmitter's issued command hands only Variant A frames to the bus (R111). -/
theorem variantAFrame_of_sentFrames {c : Command} {s t : State} (ht : issue c s = .next t) {f : List Byte}
    (hf : f ∈ sentFrames c t.rsp) : VariantAFrame f := by
  obtain ⟨i, r, hdec, hi, hr, hne, rfl⟩ := of_mem_sentFrames hf
  rw [issue_of_decode_ok hdec] at ht
  exact variantAFrame_of_exec hi ht hr hne

/-- The delivery of a Variant A frame leaves the receiver with nothing accepted (R127). -/
theorem nothingAccepted_of_deliver {f : List Byte} (hf : VariantAFrame f) {s t : State} (hs : NothingAccepted s)
    (ht : issue ⟨encode (.rxval f.length), padDin f⟩ s = .next t) : NothingAccepted t := by
  obtain ⟨-, h8, -⟩ := (variantAFrame_iff f).mp hf
  obtain ⟨hexp, hcount, -⟩ := hs
  have hwf : (Instr.rxval f.length).WellFormed := decide_eq_true (by omega)
  have hdec := decodeUndoesEncode _ hwf
  rw [issue_of_decode_ok (c := ⟨encode (.rxval f.length), padDin f⟩) hdec] at ht
  obtain ⟨hseq, hsum⟩ := exec_rxval_of_variantAFrame (rx := s.withDin (padDin f)) hf (take_padDin h8)
  by_cases hc : f[0]? = some s.expectedCounter
  · rw [hsum hc] at ht
    cases ht
    exact ⟨hexp, hcount, nofun⟩
  · rw [hseq hc] at ht
    cases ht
    exact ⟨hexp, hcount, nofun⟩

/-- A transmit move keeps the link's invariant. -/
theorem link_inv_transmit {l : Link} (hl : l.Inv) (c : Command) : (l.move (.transmit c)).Inv := by
  obtain ⟨hrange, hsent, hrx⟩ := (link_inv_iff l).mp hl
  obtain ⟨t, ht⟩ := issue_completes c l.nodes.transmitter
  rw [link_inv_iff, Link.move, ht]
  refine ⟨(registerChange_of_issue ht).inRange hrange, fun f hf => ?_, hrx⟩
  rcases List.mem_append.mp hf with hold | hnew
  · exact hsent f hold
  · exact variantAFrame_of_sentFrames ht hnew

/-- A delivery keeps the link's invariant; without such a frame nothing happens. -/
theorem link_inv_deliver {l : Link} (hl : l.Inv) (k : Nat) : (l.move (.deliver k)).Inv := by
  obtain ⟨hrange, hsent, hrx⟩ := (link_inv_iff l).mp hl
  rcases hk : l.sent[k]? with _ | f
  · rw [Link.move, hk]
    exact hl
  · obtain ⟨t, ht⟩ := issue_completes ⟨encode (.rxval f.length), padDin f⟩ l.nodes.receiver
    rw [link_inv_iff]
    simp only [Link.move, hk, ht]
    exact ⟨hrange, hsent, nothingAccepted_of_deliver (hsent f (List.mem_of_getElem? hk)) hrx ht⟩

/-- A reset of either node keeps the link's invariant. -/
theorem link_inv_resetNode {l : Link} (hl : l.Inv) (n : Node) : (l.move (.resetNode n)).Inv := by
  obtain ⟨hrange, hsent, hrx⟩ := (link_inv_iff l).mp hl
  rw [link_inv_iff]
  cases n with
  | transmitter => exact ⟨reset_runInv.1, hsent, hrx⟩
  | receiver => exact ⟨hrange, hsent, rfl, rfl, nofun⟩

/-- Settles O54, one kind of move at a time. -/
theorem linkMoveKeepsInvariant : Obligations.LinkMoveKeepsInvariant := by
  intro l m hl
  cases m with
  | transmit c => exact link_inv_transmit hl c
  | deliver k => exact link_inv_deliver hl k
  | resetNode n => exact link_inv_resetNode hl n

/-- Settles O55: both blocks are at reset, and no frame has been sent. -/
theorem linkResetMeetsInvariant : Obligations.LinkResetMeetsInvariant :=
  (link_inv_iff _).mpr ⟨reset_runInv.1, nofun, rfl, rfl, nofun⟩

/-- The link's invariant holds after any moves from a link where it holds. -/
theorem link_inv_foldl (moves : List LinkMove) {l : Link} (hl : l.Inv) : (moves.foldl Link.move l).Inv := by
  induction moves generalizing l with
  | nil => exact hl
  | cons m moves ih => exact ih (linkMoveKeepsInvariant l m hl)

/-- Settles O56, by induction on the moves: the receiver's part of the link's invariant. -/
theorem loopBackNeverAccepts : Obligations.LoopBackNeverAccepts := by
  intro moves
  obtain ⟨-, -, hrx⟩ := (link_inv_iff _).mp (link_inv_foldl moves linkResetMeetsInvariant)
  exact hrx

end Sys2Proof.Machine
